-- ==== Sys2Proof/Config.lean ====
section
/-! DEFINITION. Config: the implementation parameters CNT_W and AW_MAX, which every definition of the machine takes (00_scope.md R7, R8, R11), their reference values, and the one free value: what the storage holds before anything is written to it (10_state.md R28, R30). -/

namespace Sys2Proof

/-- The implementation parameters of a block, with the constraint on them (R7, R8, R11). -/
structure Params where
  /-- CNT_W, the width in bits of every counter, count, index and size (R7). -/
  cntW : Nat
  /-- AW_MAX, the width in bits of a storage index (R8). -/
  awMax : Nat
  /-- 0 <= AW_MAX <= CNT_W - 1 (R8, R11). -/
  fits : awMax < cntW
deriving DecidableEq, Repr

/-- CAP_MAX = 2^AW_MAX, the number of storage cells and the largest capacity INIT accepts (R8). -/
def Params.capMax (P : Params) : Nat :=
  2 ^ P.awMax

/-- The reference values CNT_W = 32 and AW_MAX = 8 (R7, R8, R11). -/
abbrev Params.reference : Params where
  cntW := 32
  awMax := 8
  fits := by decide

/-- FREE VALUE: the byte a storage cell holds while nothing has written it, by its index.
The spec: STORE's content after reset is unspecified, and a model may give it as an arbitrary draw (R28, R30).
It has no body, so nothing can be proved of it. DESIGN CHOICE (log 2). Safe. -/
opaque Config.storeInit : Nat → BitVec 8

end Sys2Proof
end

