-- ==== Sys2Proof/Word.lean ====
section
/-! DEFINITION. Word: the bit vectors of a block with parameters P, each at the width the spec gives it (00_scope.md R7, R8, R10, R12; 10_state.md R25, R26; 30_encoding.md R46). Every value is unsigned (R12) and arithmetic wraps (R13). -/

namespace Sys2Proof

/-- The data unit: one unsigned byte (R10). -/
abbrev Byte := BitVec 8

/-- A position counter, count, offset, size or capacity: CNT_W bits (R7). -/
abbrev Count (P : Params) := BitVec P.cntW

/-- A storage index: AW_MAX bits (R8, R32). -/
abbrev Index (P : Params) := BitVec P.awMax

/-- The OP field (R46). -/
abbrev OpCode := BitVec 3

/-- A packed command word: CNT_W + 12 bits (R46). -/
abbrev CmdWord (P : Params) := BitVec (P.cntW + 12)

/-- The REMAIN register: AW_MAX + 1 bits (R26). -/
abbrev BeatCount (P : Params) := BitVec (P.awMax + 1)

end Sys2Proof
end

