-- ==== Sys2Proof/Syntax.lean ====
section
/-! DEFINITION. Syntax: the ten commands of the opcode map (30_encoding.md R49), each with the fields it uses and none it ignores (R50). An operand of CNT_W bits is a number, so that a command is the same for every CNT_W; WellFormed says which numbers fit. -/

namespace Sys2Proof

/-- A command of the block. The bulk commands' mode (ARR) is part of the constructor (R49, R50). -/
inductive Instr where
  /-- INIT: ARR, the storage-present flag, and ARG, the capacity (R53). -/
  | init (arr : Bool) (cap : Nat)
  /-- PUT: BYTE, the byte to append (R63). -/
  | put (byte : Byte)
  /-- GET (R64). -/
  | get
  /-- PEEK: ARG, the logical offset from RD_POS (R65). -/
  | peek (offset : Nat)
  /-- FLUSH (R66). -/
  | flush
  /-- LEN (R61). -/
  | len
  /-- BULK_READ.Q: bulk read, size-query mode (R74). -/
  | bulkReadQ
  /-- BULK_READ: ARG, the requested size (R75). -/
  | bulkRead (size : Nat)
  /-- BULK_WRITE.Q: bulk write, size-query mode (R76). -/
  | bulkWriteQ
  /-- BULK_WRITE: ARG, the requested size; the data operand D comes on the wr stream (R50, R77). -/
  | bulkWrite (size : Nat)
deriving DecidableEq, Repr

end Sys2Proof
end

