-- ==== Sys2Proof/WellFormed.lean ====
section
/-! DEFINITION. WellFormed: which field values fit the command port (30_encoding.md R45) of a block whose counters are w = CNT_W bits wide. No encoding is illegal or reserved (R51): a command is well formed exactly when its operand fits. -/

namespace Sys2Proof

/-- The four fields of a command, as numbers (the columns of R52's table). -/
structure RawCommand where
  op : Nat
  arr : Nat
  arg : Nat
  byte : Nat
deriving DecidableEq, Repr

/-- Each field fits its port: cmd_op 3 bits, cmd_arr 1, cmd_arg CNT_W, cmd_byte 8 (R45). -/
def RawCommand.wf (w : Nat) (c : RawCommand) : Bool :=
  decide (c.op < 2 ^ 3) && decide (c.arr < 2) && decide (c.arg < 2 ^ w) && decide (c.byte < 2 ^ 8)

/-- The operand of a command that goes in ARG fits cmd_arg, CNT_W bits (R45, R50). -/
def Instr.wf (w : Nat) : Instr → Bool
  | .init _ cap => decide (cap < 2 ^ w)
  | .put _ => true
  | .get => true
  | .peek offset => decide (offset < 2 ^ w)
  | .flush => true
  | .len => true
  | .bulkReadQ => true
  | .bulkRead size => decide (size < 2 ^ w)
  | .bulkWriteQ => true
  | .bulkWrite size => decide (size < 2 ^ w)

end Sys2Proof
end

