-- ==== Sys2Proof/Decode.lean ====
section
/-! DEFINITION. Decode: the command word and its fields (30_encoding.md R46), the total decoder (R49 to R51) and the encoder to the canonical spelling (R51). The packing and the field readers are written for every counter width w = CNT_W. -/

namespace Sys2Proof

/-- cmd_word = ARG, BYTE, ARR, OP, most significant first (R46). -/
def packWord {w : Nat} (arg : BitVec w) (byte : BitVec 8) (arr : Bool) (op : BitVec 3) : BitVec (w + 12) :=
  arg ++ (byte ++ (BitVec.ofBool arr ++ op))

/-- OP = cmd_word[2:0] (R46). -/
def opField {w : Nat} (c : BitVec (w + 12)) : BitVec 3 := c.extractLsb' 0 3

/-- ARR = cmd_word[3] (R46). -/
def arrField {w : Nat} (c : BitVec (w + 12)) : Bool := c.getLsbD 3

/-- BYTE = cmd_word[11:4] (R46). -/
def byteField {w : Nat} (c : BitVec (w + 12)) : BitVec 8 := c.extractLsb' 4 8

/-- ARG = cmd_word[CNT_W+11:12] (R46). -/
def argField {w : Nat} (c : BitVec (w + 12)) : BitVec w := c.extractLsb' 12 w

/-- The opcode map: OP selects the command, ARR the mode of the bulk commands; a field the command does not use is
ignored (R49, R50, R51). The last branch is OP = 7. -/
def decodeFields {w : Nat} (op : OpCode) (arr : Bool) (arg : BitVec w) (byte : Byte) : Instr :=
  if op = 0 then .init arr arg.toNat
  else if op = 1 then .put byte
  else if op = 2 then .get
  else if op = 3 then .peek arg.toNat
  else if op = 4 then .flush
  else if op = 5 then .len
  else if op = 6 then (if arr then .bulkRead arg.toNat else .bulkReadQ)
  else (if arr then .bulkWrite arg.toNat else .bulkWriteQ)

/-- The decoder: total, with no invalid outcome (R51). -/
def decode {w : Nat} (c : BitVec (w + 12)) : Instr :=
  decodeFields (opField c) (arrField c) (argField c) (byteField c)

/-- The OP value of a command (R49). -/
def Instr.op : Instr → OpCode
  | .init _ _ => 0
  | .put _ => 1
  | .get => 2
  | .peek _ => 3
  | .flush => 4
  | .len => 5
  | .bulkReadQ => 6
  | .bulkRead _ => 6
  | .bulkWriteQ => 7
  | .bulkWrite _ => 7

/-- The ARR value of a command's canonical spelling (R49, R51). -/
def Instr.arr : Instr → Bool
  | .init arr _ => arr
  | .put _ => false
  | .get => false
  | .peek _ => false
  | .flush => false
  | .len => false
  | .bulkReadQ => false
  | .bulkRead _ => true
  | .bulkWriteQ => false
  | .bulkWrite _ => true

/-- The ARG value of a command's canonical spelling: 0 where the command does not use it (R49, R51). -/
def Instr.arg : Instr → Nat
  | .init _ cap => cap
  | .put _ => 0
  | .get => 0
  | .peek offset => offset
  | .flush => 0
  | .len => 0
  | .bulkReadQ => 0
  | .bulkRead size => size
  | .bulkWriteQ => 0
  | .bulkWrite size => size

/-- The BYTE value of a command's canonical spelling: 0 except for PUT (R49, R51). -/
def Instr.byte : Instr → Byte
  | .init _ _ => 0
  | .put byte => byte
  | .get => 0
  | .peek _ => 0
  | .flush => 0
  | .len => 0
  | .bulkReadQ => 0
  | .bulkRead _ => 0
  | .bulkWriteQ => 0
  | .bulkWrite _ => 0

/-- The canonical command word of a command, CNT_W = w (R46, R51). -/
def encode (w : Nat) (i : Instr) : BitVec (w + 12) :=
  packWord (BitVec.ofNat w i.arg) i.byte i.arr i.op

/-- The word of a command written as numbers; a number is cut to its port's width (R45, R46). -/
def RawCommand.word (w : Nat) (c : RawCommand) : BitVec (w + 12) :=
  packWord (BitVec.ofNat w c.arg) (BitVec.ofNat 8 c.byte) (decide (c.arr % 2 = 1)) (BitVec.ofNat 3 c.op)

/-- The mnemonic of a command (R49's table). -/
def Instr.mnemonic : Instr → String
  | .init _ _ => "INIT"
  | .put _ => "PUT"
  | .get => "GET"
  | .peek _ => "PEEK"
  | .flush => "FLUSH"
  | .len => "LEN"
  | .bulkReadQ => "BULK_READ.Q"
  | .bulkRead _ => "BULK_READ"
  | .bulkWriteQ => "BULK_WRITE.Q"
  | .bulkWrite _ => "BULK_WRITE"

/-- The rows of the opcode table: mnemonic, match and mask over command-word bits 3 to 0 (spec/opcode_table.json). -/
def opcodeRows : List (String × BitVec 4 × BitVec 4) :=
  [ ("INIT", 0x0, 0x7), ("PUT", 0x1, 0x7), ("GET", 0x2, 0x7), ("PEEK", 0x3, 0x7), ("FLUSH", 0x4, 0x7),
    ("LEN", 0x5, 0x7), ("BULK_READ.Q", 0x6, 0xf), ("BULK_READ", 0xe, 0xf), ("BULK_WRITE.Q", 0x7, 0xf),
    ("BULK_WRITE", 0xf, 0xf) ]

/-- What the decoder refuses, by name: a number that is no command word. Every command word decodes (R51). -/
inductive DecodeError where
  /-- The number has a bit at or above CNT_W + 12, where a command word has none (R46). DESIGN CHOICE (log 14). Safe. -/
  | widerThanWord
deriving DecidableEq, Repr

/-- A number read as a command word of a block with CNT_W = w, bit 0 least significant (R46). -/
def decodeNumber (w n : Nat) : Except DecodeError Instr :=
  if n < 2 ^ (w + 12) then .ok (decode (BitVec.ofNat (w + 12) n)) else .error .widerThanWord

/-- The command read from a word numbered as the opcode table numbers it, at the table's CNT_W, the reference value; bits at
or above nbits are 0. -/
def decodeTableWord (nbits w : Nat) : Option Instr :=
  match decodeNumber Params.reference.cntW (w % 2 ^ nbits) with
  | .ok i => some i
  | .error _ => none

end Sys2Proof
end

