-- ==== Sys2Proof/Machine/State.lean ====
section
/-! DEFINITION. State: everything the spec gives a block with parameters P (10_state.md R19 to R26), the host's side of the ports as plain data (log 3, log 7), the machine's state (the parameters and the block built with them, 00_scope.md R11; log 1), the reset state (R28), and the reasons a step can stop. -/

namespace Sys2Proof.Machine

/-- The storage: the cells something has written, as (index, byte) pairs. An index that is not listed has no value of its
own here; Ops.lean's Block.memRead says what reading it gives (log 2). -/
abbrev Memory := List Host.Cell

/-- The input ports in one clock cycle (30_encoding.md R45). -/
structure PortIn (P : Params) where
  rst : Bool
  cmdValid : Bool
  cmdOp : OpCode
  cmdArr : Bool
  cmdArg : Count P
  cmdByte : Byte
  wrValid : Bool
  wrByte : Byte
  rdReady : Bool
deriving DecidableEq, Repr

/-- The output ports in one clock cycle (30_encoding.md R45, 70_reset_and_hazards.md R106). -/
structure PortOut (P : Params) where
  cmdReady : Bool
  rspValid : Bool
  rspStatus : BitVec 3
  rspByte : Byte
  rspCount : Count P
  wrReady : Bool
  rdValid : Bool
  rdByte : Byte
deriving DecidableEq, Repr

/-- What the host presents next (00_scope.md R16: two levels of description). DESIGN CHOICE (log 3). Safe. -/
inductive HostAct (P : Params) where
  /-- The transaction level: one whole command, its command word and its data operand D (43_bulk_transfer.md R77),
  from a host that meets its duties (70_reset_and_hazards.md R111). -/
  | command (word : CmdWord P) (data : List Byte)
  /-- The cycle level: the input ports of one clock cycle, from any host (70_reset_and_hazards.md R102). -/
  | cycle (ports : PortIn P)
deriving DecidableEq, Repr

/-- The values of PHASE (10_state.md R26). The register is two bits; 0b11 is never reached, because no rule writes it. -/
abbrev phaseIdle : BitVec 2 := 0b00#2
/-- PHASE = XFER_WR (R26). -/
abbrev phaseXferWr : BitVec 2 := 0b01#2
/-- PHASE = XFER_RD (R26). -/
abbrev phaseXferRd : BitVec 2 := 0b10#2

/-- The registers and storage of a block with parameters P, and the host's side of its ports. -/
structure Block (P : Params) where
  /-- INIT_DONE (R19). -/
  initDone : Bool
  /-- MASK, the capacity mask C - 1 (R20). -/
  mask : Count P
  /-- RD_POS, the read position counter (R22). -/
  rdPos : Count P
  /-- WR_POS, the write position counter (R23). -/
  wrPos : Count P
  /-- STORE (R24). -/
  store : Memory
  /-- RSP_VALID (R25). -/
  rspValid : Bool
  /-- RSP_STATUS (R25); its codes are those of 30_encoding.md R47. -/
  rspStatus : BitVec 3
  /-- RSP_BYTE (R25). -/
  rspByte : Byte
  /-- RSP_COUNT (R25). -/
  rspCount : Count P
  /-- PHASE (R26). -/
  phase : BitVec 2
  /-- REMAIN, the beats still owed (R26). -/
  remain : BeatCount P
  /-- The model's own (log 7): what the host presents next, in order. -/
  host : List (HostAct P)
  /-- The model's own (log 7): the data operand D, the bytes the host offers on the wr stream, next first. -/
  wrData : List Byte
  /-- The model's own (log 7): the bytes the host has taken on the rd stream, oldest first. -/
  rdStream : List Byte
deriving DecidableEq, Repr

/-- The state of the machine: the parameters the block is built with, and the block. The parameters are configuration: no
step changes them (R11; log 1). -/
structure State where
  /-- CNT_W and AW_MAX (R7, R8, R11). -/
  params : Params
  /-- The block with those parameters. -/
  block : Block params
deriving DecidableEq, Repr

/-- Why a step stops. -/
inductive Fault where
  /-- BULK_WRITE at the transaction level with a data operand shorter than the n bytes it must take: the spec gives the
  command no step then, it is stuck (43_bulk_transfer.md R83). Raised by execBulkWrite alone. Safe (log 5). -/
  | shortData
deriving DecidableEq, Repr

/-- Why an instruction has no meaning. -/
inductive Refusal where
  /-- An instruction with no meaning yet, by its mnemonic. No arm of exec raises it. Safe. -/
  | notModelled (mnemonic : String)
deriving DecidableEq, Repr

/-- A block with parameters P right after reset (R28, D16). No storage cell has been written, and the host presents nothing
(log 7, log 8). -/
def Block.reset (P : Params) : Block P where
  initDone := false
  mask := 0
  rdPos := 0
  wrPos := 0
  store := []
  rspValid := false
  rspStatus := 0
  rspByte := 0
  rspCount := 0
  phase := phaseIdle
  remain := 0
  host := []
  wrData := []
  rdStream := []

/-- The machine with parameters P right after reset (R11, R28). -/
def State.resetAt (P : Params) : State where
  params := P
  block := Block.reset P

/-- The machine right after reset at the reference parameters. DESIGN CHOICE (log 1): the interface has one reset state, and
every other definition takes the parameters as they come. Safe. -/
def State.reset : State :=
  State.resetAt Params.reference

end Sys2Proof.Machine
end

