-- ==== Sys2Proof/Machine/Flags.lean ====
section
/-! DEFINITION. Flags: the block has no condition codes (10_state.md R27); a command's outcome is a status code (30_encoding.md R47, 60_exceptions.md R87). -/

namespace Sys2Proof.Machine

/-- The statuses a command can end with (R47). -/
inductive Status where
  | ok
  | notInitialized
  | nullStorage
  | full
  | empty
  | outOfRange
  | invalidCapacity
deriving DecidableEq, Repr

/-- The code of a status on rsp_status (R47). Code 7 is reserved and is no status's code. -/
def Status.code : Status → BitVec 3
  | .ok => 0
  | .notInitialized => 1
  | .nullStorage => 2
  | .full => 3
  | .empty => 4
  | .outOfRange => 5
  | .invalidCapacity => 6

/-- The status a code names; none for the reserved code 7 (R47, R51). -/
def Status.ofCode (c : BitVec 3) : Option Status :=
  if c = 0 then some .ok
  else if c = 1 then some .notInitialized
  else if c = 2 then some .nullStorage
  else if c = 3 then some .full
  else if c = 4 then some .empty
  else if c = 5 then some .outOfRange
  else if c = 6 then some .invalidCapacity
  else none

end Sys2Proof.Machine
end

