-- ==== Sys2Proof/Machine/Operands.lean ====
section
/-! DEFINITION. Operands: the arithmetic every command is built from, written for every counter width w = CNT_W and every index width a = AW_MAX (00_scope.md R11, R13, R14). Values are unsigned and wrap modulo 2^CNT_W. -/

namespace Sys2Proof.Machine

/-- is_pow2(c): c is not 0 and c AND (c - 1) is 0 (R14). -/
def isPow2 {w : Nat} (c : BitVec w) : Bool :=
  decide (c ≠ 0) && decide (c &&& (c - 1) = 0)

/-- cap_ok(C): a power of two, at most CAP_MAX = 2^a (40_initialize.md R54). -/
def capOk (a : Nat) {w : Nat} (c : BitVec w) : Bool :=
  isPow2 c && decide (c.toNat ≤ 2 ^ a)

/-- ring_buffer_indexer: idx(p) = trunc_AW_MAX(p AND MASK) (20_memory.md R33). -/
def indexer (a : Nat) {w : Nat} (mask p : BitVec w) : BitVec a :=
  (p &&& mask).setWidth a

/-- len() = WR_POS - RD_POS, modular (41_length.md R60). -/
def lengthOf {w : Nat} (rdPos wrPos : BitVec w) : BitVec w :=
  wrPos - rdPos

/-- Available capacity: MASK - len() + 1, modular (43_bulk_transfer.md R76, R78). -/
def spaceOf {w : Nat} (mask rdPos wrPos : BitVec w) : BitVec w :=
  mask - lengthOf rdPos wrPos + 1

/-- min(a, b), unsigned (R13). -/
def minCount {w : Nat} (x y : BitVec w) : BitVec w :=
  if x ≤ y then x else y

end Sys2Proof.Machine
end

