-- ==== Sys2Proof/Machine/Ops.lean ====
section
/-! DEFINITION. Ops: the named operations over the storage, the registers and the host's side of the ports. Every access to the storage goes through Block.memRead and Block.memWrite, every response through Block.respond, every failure through fail. A command's rule is written on a block with parameters P; liftBlock and State.onBlock carry it to the machine's state. -/

namespace Sys2Proof.Machine

/-- The byte written to an address, or none where nothing has been written. -/
def Memory.read : Memory → Nat → Option Byte
  | [], _ => none
  | (x, c) :: m, a => if x = a then some c else Memory.read m a

/-- Write one byte, keeping the addresses strictly rising. An unlisted address reads as no value, so no byte written is
ever one that an unlisted address reads as, and no entry is ever to be removed. -/
def Memory.write : Memory → Nat → Byte → Memory
  | [], a, b => [(a, b)]
  | (x, c) :: m, a, b =>
    if a < x then (a, b) :: (x, c) :: m
    else if a = x then (a, b) :: m
    else (x, c) :: Memory.write m a b

/-- The addresses rise strictly from lo on, and each is below the number of cells (20_memory.md R31, R32). -/
def Memory.wfFrom (cells lo : Nat) : Memory → Bool
  | [] => true
  | (x, _) :: m => decide (lo ≤ x) && decide (x < cells) && Memory.wfFrom cells (x + 1) m

/-- The canonical form of the storage of a block with this many cells: strictly rising addresses, all of them cells the
block has. -/
def Memory.wf (cells : Nat) (m : Memory) : Bool :=
  Memory.wfFrom cells 0 m

variable {P : Params}

/-- MemRead(i, 1) (00_scope.md R15). A cell nothing has written holds an arbitrary byte of its own (10_state.md R28, R30):
the free value Config.storeInit. DESIGN CHOICE (log 2). Safe. -/
def Block.memRead (s : Block P) (i : Index P) : Byte :=
  match Memory.read s.store i.toNat with
  | some b => b
  | none => Config.storeInit i.toNat

/-- MemWrite(i, 1, b) (R15). -/
def Block.memWrite (s : Block P) (i : Index P) (b : Byte) : Block P :=
  { s with store := Memory.write s.store i.toNat b }

/-- len() of the state (41_length.md R60). -/
def Block.len (s : Block P) : Count P :=
  lengthOf s.rdPos s.wrPos

/-- The available capacity of the state (43_bulk_transfer.md R76). -/
def Block.space (s : Block P) : Count P :=
  spaceOf s.mask s.rdPos s.wrPos

/-- idx(p) under the state's MASK (20_memory.md R33). -/
def Block.idx (s : Block P) (p : Count P) : Index P :=
  indexer P.awMax s.mask p

/-- RD_POS <- p. -/
def Block.setRdPos (s : Block P) (p : Count P) : Block P :=
  { s with rdPos := p }

/-- WR_POS <- p. -/
def Block.setWrPos (s : Block P) (p : Count P) : Block P :=
  { s with wrPos := p }

/-- A successful INIT's writes: INIT_DONE, MASK and both counters; STORE is not written (40_initialize.md R53, R58). -/
def Block.bindCapacity (s : Block P) (cap : Count P) : Block P :=
  { s with initDone := true, mask := cap - 1, rdPos := 0, wrPos := 0 }

/-- A command's response in the response registers (10_state.md R25, 70_reset_and_hazards.md R102). -/
def Block.respond (s : Block P) (st : Status) (byte : Byte) (count : Count P) : Block P :=
  { s with rspValid := true, rspStatus := st.code, rspByte := byte, rspCount := count }

/-- An edge at which no command is accepted: RSP_VALID <- 0, the other response registers unchanged (R25, R102). -/
def Block.endResponse (s : Block P) : Block P :=
  { s with rspValid := false }

/-- raise S(): the command ends with status S, byte 0x00 and count 0, and writes nothing else (60_exceptions.md R88).
This is the block's only "exception": nothing is saved, no mode changes, control goes nowhere (R91, R92). -/
def fail (st : Status) (s : Block P) : Host.Outcome (Block P) Fault Refusal :=
  .next (s.respond st 0 0)

/-- The host takes bytes on the rd stream. -/
def Block.deliver (s : Block P) (bs : List Byte) : Block P :=
  { s with rdStream := s.rdStream ++ bs }

/-- The block takes the first k bytes of the data operand. -/
def Block.consume (s : Block P) (k : Nat) : Block P :=
  { s with wrData := s.wrData.drop k }

/-- The host offers a data operand. -/
def Block.offer (s : Block P) (d : List Byte) : Block P :=
  { s with wrData := d }

/-- What the host presents from now on. -/
def Block.present (s : Block P) (acts : List (HostAct P)) : Block P :=
  { s with host := acts }

/-- The single-element put path: PUT's write and increment without its FULL test (42_single_element.md R63,
70_reset_and_hazards.md R104). -/
def Block.putByte (s : Block P) (b : Byte) : Block P :=
  (s.memWrite (s.idx s.wrPos) b).setWrPos (s.wrPos + 1)

/-- The bytes at n positions from p on, in ascending order (43_bulk_transfer.md R75). -/
def Block.readRun (s : Block P) (p : Count P) (n : Nat) : List Byte :=
  (List.range n).map fun k => s.memRead (s.idx (p + BitVec.ofNat P.cntW k))

/-- Write bytes at ascending positions from p on, the counters unchanged (43_bulk_transfer.md R77). -/
def Block.writeRun (s : Block P) (p : Count P) : List Byte → Block P
  | [] => s
  | b :: bs => Block.writeRun (s.memWrite (s.idx p) b) (p + 1) bs

/-- start_transfer(ph, n): PHASE <- ph, REMAIN <- n (70_reset_and_hazards.md R103). n is at most CAP_MAX in every reachable
state; elsewhere REMAIN keeps the bits it has. DEDUCED (log 11). -/
def Block.startTransfer (s : Block P) (ph : BitVec 2) (n : Count P) : Block P :=
  { s with phase := ph, remain := n.setWidth (P.awMax + 1) }

/-- The end of a beat: REMAIN <- REMAIN - 1, and PHASE <- IDLE where REMAIN was 1 (R104, R105). -/
def Block.countBeat (s : Block P) : Block P :=
  { s with remain := s.remain - 1, phase := if s.remain = 1 then phaseIdle else s.phase }

/-- Every register but STORE takes its reset value (70_reset_and_hazards.md R98, 10_state.md R28). The host's side of the
ports is no register of the block and stays (log 7). -/
def Block.resetRegisters (s : Block P) : Block P :=
  { Block.reset P with store := s.store, host := s.host, wrData := s.wrData, rdStream := s.rdStream }

/-- The response of a transfer-mode bulk command with status OK that moves n bytes, once the command is complete. With
n = 0 it completes at its acceptance edge and its response is presented next (R103, R107). With n > 0 it completes at its
n-th beat (R113); the one cycle of its response is over by then, so RSP_VALID is 0 and the other response registers keep
the response (R102, R107). DEDUCED (log 4). -/
def Block.respondTransfer (s : Block P) (n : Count P) : Block P :=
  { s.respond .ok 0 n with rspValid := decide (n = 0) }

/-- What a block with parameters P answers, as the machine's answer: the parameters stay. -/
def liftBlock (P : Params) (o : Host.Outcome (Block P) Fault Refusal) : Host.Outcome State Fault Refusal :=
  match o with
  | .next b => .next { params := P, block := b }
  | .fault f => .fault f
  | .refused r => .refused r

/-- The machine acts as its block does. -/
def State.onBlock (s : State) (f : Block s.params → Host.Outcome (Block s.params) Fault Refusal) :
    Host.Outcome State Fault Refusal :=
  liftBlock s.params (f s.block)

end Sys2Proof.Machine
end

