-- ==== Sys2Proof/Machine/Bulk.lean ====
section
/-! DEFINITION. Bulk: the bulk transfer commands (43_bulk_transfer.md), each one atomic step (20_memory.md R38). The beats that carry their bytes are in Cycle.lean. -/

namespace Sys2Proof.Machine

variable {P : Params}

/-- How many bytes a BULK_READ moves: min(requested, len()) (R75, R79). -/
def Block.readCount (s : Block P) (size : Count P) : Count P :=
  minCount size s.len

/-- How many bytes a BULK_WRITE moves: min(requested, available capacity) (R77, R79). -/
def Block.writeCount (s : Block P) (size : Count P) : Count P :=
  minCount size s.space

/-- BULK_READ.Q (R74): NOT_INITIALIZED, then EMPTY with count 0 (R89), else OK with count len(). -/
def Block.bulkReadQRule (s : Block P) : Host.Outcome (Block P) Fault Refusal :=
  if s.initDone = false then fail .notInitialized s
  else if s.len = 0 then fail .empty s
  else .next (s.respond .ok 0 s.len)

/-- BULK_READ (R75): NOT_INITIALIZED, then EMPTY, else the n oldest bytes go out on the rd stream and RD_POS advances by n.
The host is taken to take all n bytes, as it must (70_reset_and_hazards.md R111, R113; log 6). -/
def Block.bulkReadRule (size : Count P) (s : Block P) : Host.Outcome (Block P) Fault Refusal :=
  if s.initDone = false then fail .notInitialized s
  else if s.len = 0 then fail .empty s
  else
    .next (((s.deliver (s.readRun s.rdPos (s.readCount size).toNat)).setRdPos
      (s.rdPos + s.readCount size)).respondTransfer (s.readCount size))

/-- BULK_WRITE.Q (R76): NOT_INITIALIZED, then FULL with count 0 (R89), else OK with the available capacity. -/
def Block.bulkWriteQRule (s : Block P) : Host.Outcome (Block P) Fault Refusal :=
  if s.initDone = false then fail .notInitialized s
  else if s.space = 0 then fail .full s
  else .next (s.respond .ok 0 s.space)

/-- BULK_WRITE (R77): NOT_INITIALIZED, then FULL, else the first n bytes of the data operand are written from WR_POS on and
WR_POS advances by n. With fewer than n bytes offered the command has no step (R83; log 5). -/
def Block.bulkWriteRule (size : Count P) (s : Block P) : Host.Outcome (Block P) Fault Refusal :=
  if s.initDone = false then fail .notInitialized s
  else if s.space = 0 then fail .full s
  else if s.wrData.length < (s.writeCount size).toNat then .fault .shortData
  else
    .next ((((s.writeRun s.wrPos (s.wrData.take (s.writeCount size).toNat)).consume (s.writeCount size).toNat).setWrPos
      (s.wrPos + s.writeCount size)).respondTransfer (s.writeCount size))

/-- BULK_READ.Q. -/
def execBulkReadQ (s : State) : Host.Outcome State Fault Refusal :=
  s.onBlock Block.bulkReadQRule

/-- BULK_READ, its operand on the cmd_arg port (log 17). -/
def execBulkRead (size : Nat) (s : State) : Host.Outcome State Fault Refusal :=
  s.onBlock (Block.bulkReadRule (BitVec.ofNat s.params.cntW size))

/-- BULK_WRITE.Q. -/
def execBulkWriteQ (s : State) : Host.Outcome State Fault Refusal :=
  s.onBlock Block.bulkWriteQRule

/-- BULK_WRITE, its operand on the cmd_arg port (log 17). -/
def execBulkWrite (size : Nat) (s : State) : Host.Outcome State Fault Refusal :=
  s.onBlock (Block.bulkWriteRule (BitVec.ofNat s.params.cntW size))

end Sys2Proof.Machine
end

