-- ==== Sys2Proof/Machine/Initialize.lean ====
section
/-! DEFINITION. Initialize: the INIT command (40_initialize.md). -/

namespace Sys2Proof.Machine

/-- INIT (R53): NULL_STORAGE if ARR = 0, before any test of the capacity (R55); INVALID_CAPACITY if not cap_ok(C) (R54);
else the storage is bound with capacity C and the FIFO is empty. Re-initialization behaves the same (R56). -/
def Block.initRule {P : Params} (arr : Bool) (cap : Count P) (s : Block P) : Host.Outcome (Block P) Fault Refusal :=
  if arr = false then fail .nullStorage s
  else if capOk P.awMax cap = false then fail .invalidCapacity s
  else .next ((s.bindCapacity cap).respond .ok 0 0)

/-- INIT, its operand on the cmd_arg port (log 17). -/
def execInit (arr : Bool) (cap : Nat) (s : State) : Host.Outcome State Fault Refusal :=
  s.onBlock (Block.initRule arr (BitVec.ofNat s.params.cntW cap))

end Sys2Proof.Machine
end

