-- ==== Sys2Proof/Machine/Length.lean ====
section
/-! DEFINITION. Length: the LEN command (41_length.md). -/

namespace Sys2Proof.Machine

/-- LEN (R61): always OK, count = len(). -/
def Block.lenRule {P : Params} (s : Block P) : Host.Outcome (Block P) Fault Refusal :=
  .next (s.respond .ok 0 s.len)

/-- LEN. -/
def execLen (s : State) : Host.Outcome State Fault Refusal :=
  s.onBlock Block.lenRule

end Sys2Proof.Machine
end

