-- ==== Sys2Proof/Machine/Single.lean ====
section
/-! DEFINITION. Single: the single-element commands PUT, GET, PEEK and FLUSH (42_single_element.md). -/

namespace Sys2Proof.Machine

variable {P : Params}

/-- PUT (R63): NOT_INITIALIZED, then FULL, else the byte is written at idx(WR_POS) and WR_POS advances by 1. -/
def Block.putRule (byte : Byte) (s : Block P) : Host.Outcome (Block P) Fault Refusal :=
  if s.initDone = false then fail .notInitialized s
  else if ¬ s.len ≤ s.mask then fail .full s
  else .next ((s.putByte byte).respond .ok 0 0)

/-- GET (R64): NOT_INITIALIZED, then EMPTY, else the byte at idx(RD_POS) is returned and RD_POS advances by 1. -/
def Block.getRule (s : Block P) : Host.Outcome (Block P) Fault Refusal :=
  if s.initDone = false then fail .notInitialized s
  else if s.len = 0 then fail .empty s
  else .next ((s.setRdPos (s.rdPos + 1)).respond .ok (s.memRead (s.idx s.rdPos)) 0)

/-- PEEK (R65): NOT_INITIALIZED, then OUT_OF_RANGE, else the byte at idx(RD_POS + ARG) is returned (20_memory.md R34). -/
def Block.peekRule (offset : Count P) (s : Block P) : Host.Outcome (Block P) Fault Refusal :=
  if s.initDone = false then fail .notInitialized s
  else if ¬ offset < s.len then fail .outOfRange s
  else .next (s.respond .ok (s.memRead (s.idx (s.rdPos + offset))) 0)

/-- FLUSH (R66): RD_POS <- WR_POS if initialized; always OK. -/
def Block.flushRule (s : Block P) : Host.Outcome (Block P) Fault Refusal :=
  .next ((if s.initDone = true then s.setRdPos s.wrPos else s).respond .ok 0 0)

/-- PUT. -/
def execPut (byte : Byte) (s : State) : Host.Outcome State Fault Refusal :=
  s.onBlock (Block.putRule byte)

/-- GET. -/
def execGet (s : State) : Host.Outcome State Fault Refusal :=
  s.onBlock Block.getRule

/-- PEEK, its operand on the cmd_arg port (log 17). -/
def execPeek (offset : Nat) (s : State) : Host.Outcome State Fault Refusal :=
  s.onBlock (Block.peekRule (BitVec.ofNat s.params.cntW offset))

/-- FLUSH. -/
def execFlush (s : State) : Host.Outcome State Fault Refusal :=
  s.onBlock Block.flushRule

end Sys2Proof.Machine
end

