-- ==== Sys2Proof/Machine/Dispatch.lean ====
section
/-! DEFINITION. Dispatch: the transaction-level meaning of every command (00_scope.md R16), one arm per constructor. -/

namespace Sys2Proof.Machine

def exec (i : Instr) (s : State) : Host.Outcome State Fault Refusal :=
  match i with
  | .init arr cap => Sys2Proof.Machine.execInit arr cap s
  | .put byte => Sys2Proof.Machine.execPut byte s
  | .get => Sys2Proof.Machine.execGet s
  | .peek offset => Sys2Proof.Machine.execPeek offset s
  | .flush => Sys2Proof.Machine.execFlush s
  | .len => Sys2Proof.Machine.execLen s
  | .bulkReadQ => Sys2Proof.Machine.execBulkReadQ s
  | .bulkRead size => Sys2Proof.Machine.execBulkRead size s
  | .bulkWriteQ => Sys2Proof.Machine.execBulkWriteQ s
  | .bulkWrite size => Sys2Proof.Machine.execBulkWrite size s

end Sys2Proof.Machine
end

