-- ==== Sys2Proof/Machine/Rules.lean ====
section
/-! DEFINITION. Rules: the transaction rule of each command on a block with parameters P, as the acceptance branch of the cycle level applies it (70_reset_and_hazards.md R102). Laws/Exec.lean proves that exec is this on the machine's block. -/

namespace Sys2Proof.Machine

/-- The rule of a command (files 40 to 43), its operand on the cmd_arg port (log 17). -/
def Block.rule {P : Params} (i : Instr) (s : Block P) : Host.Outcome (Block P) Fault Refusal :=
  match i with
  | .init arr cap => s.initRule arr (BitVec.ofNat P.cntW cap)
  | .put byte => s.putRule byte
  | .get => s.getRule
  | .peek offset => s.peekRule (BitVec.ofNat P.cntW offset)
  | .flush => s.flushRule
  | .len => s.lenRule
  | .bulkReadQ => s.bulkReadQRule
  | .bulkRead size => s.bulkReadRule (BitVec.ofNat P.cntW size)
  | .bulkWriteQ => s.bulkWriteQRule
  | .bulkWrite size => s.bulkWriteRule (BitVec.ofNat P.cntW size)

end Sys2Proof.Machine
end

