-- ==== Sys2Proof/Machine/Cycle.lean ====
section
/-! DEFINITION. Cycle: the clocked interface, one rising edge of clk at a time (70_reset_and_hazards.md R98 to R115): the output equations, the acceptance of a command, the beats of a transfer, reset; and the edge a transaction-level host waits through while a transfer is in progress. -/

namespace Sys2Proof.Machine

variable {P : Params}

/-- cmd_ready (R106). -/
def cmdReady (rst : Bool) (s : Block P) : Bool :=
  !rst && decide (s.phase = phaseIdle)

/-- wr_ready (R106). -/
def wrReady (rst : Bool) (s : Block P) : Bool :=
  !rst && decide (s.phase = phaseXferWr)

/-- rd_valid (R106). -/
def rdValid (rst : Bool) (s : Block P) : Bool :=
  !rst && decide (s.phase = phaseXferRd)

/-- The output equations (R106): all of them combinational from the registers and rst. -/
def outputs (rst : Bool) (s : Block P) : PortOut P where
  cmdReady := cmdReady rst s
  rspValid := s.rspValid
  rspStatus := s.rspStatus
  rspByte := s.rspByte
  rspCount := s.rspCount
  wrReady := wrReady rst s
  rdValid := rdValid rst s
  rdByte := if rdValid rst s = true then s.memRead (s.idx s.rdPos) else 0

/-- The transfer a command starts at its acceptance, and its n: a transfer-mode bulk command whose status is OK and whose
count is above 0 (R102, R103). Every other command, and a bulk command that fails or moves nothing, starts none. -/
def transferOf (i : Instr) (s : Block P) : Option (BitVec 2 × Count P) :=
  match i with
  | .init _ _ => none
  | .put _ => none
  | .get => none
  | .peek _ => none
  | .flush => none
  | .len => none
  | .bulkReadQ => none
  | .bulkRead size =>
    let n := s.readCount (BitVec.ofNat P.cntW size)
    if s.initDone = true ∧ s.len ≠ 0 ∧ n ≠ 0 then some (phaseXferRd, n) else none
  | .bulkWriteQ => none
  | .bulkWrite size =>
    let n := s.writeCount (BitVec.ofNat P.cntW size)
    if s.initDone = true ∧ s.space ≠ 0 ∧ n ≠ 0 then some (phaseXferWr, n) else none

/-- The acceptance branch of R102: a transfer starts and its response is registered, the counters and STORE untouched
(R103); any other command applies its rule. -/
def accept (i : Instr) (s : Block P) : Host.Outcome (Block P) Fault Refusal :=
  match transferOf i s with
  | some (ph, n) => .next ((s.startTransfer ph n).respond .ok 0 n)
  | none => s.rule i

/-- write_beat() (R104). -/
def Block.writeBeat (s : Block P) (b : Byte) : Block P :=
  (s.putByte b).countBeat

/-- read_beat(), the host taking the byte presented on rd_byte (R105). -/
def Block.readBeat (s : Block P) : Block P :=
  ((s.deliver [s.memRead (s.idx s.rdPos)]).setRdPos (s.rdPos + 1)).countBeat

/-- The other branch of R102: no command is accepted; a beat happens where the phase and the host's handshake allow one. -/
def Block.wait (s : Block P) (p : PortIn P) : Block P :=
  if s.phase = phaseXferWr ∧ p.wrValid = true then s.endResponse.writeBeat p.wrByte
  else if s.phase = phaseXferRd ∧ p.rdReady = true then s.endResponse.readBeat
  else s.endResponse

/-- One rising edge of clk with the inputs of the cycle before it: reset (R98), acceptance (R100, R102) or neither. -/
def clockEdge (p : PortIn P) (s : Block P) : Host.Outcome (Block P) Fault Refusal :=
  if p.rst = true then .next s.resetRegisters
  else if p.cmdValid = true ∧ cmdReady p.rst s = true then accept (decodeFields p.cmdOp p.cmdArr p.cmdArg p.cmdByte) s
  else .next (s.wait p)

/-- Rising edges one after another. -/
def clockRun : List (PortIn P) → Block P → Host.Outcome (Block P) Fault Refusal
  | [], s => .next s
  | p :: ps, s =>
    match clockEdge p s with
    | .next t => clockRun ps t
    | .fault f => .fault f
    | .refused r => .refused r

/-- The inputs of a cycle in which the host presents nothing. -/
def PortIn.idle : PortIn P where
  rst := false
  cmdValid := false
  cmdOp := 0
  cmdArr := false
  cmdArg := 0
  cmdByte := 0
  wrValid := false
  wrByte := 0
  rdReady := false

/-- The inputs of a cycle in which the host presents a command word (30_encoding.md R46) and nothing else. -/
def PortIn.ofWord (c : CmdWord P) : PortIn P :=
  { (PortIn.idle : PortIn P) with
    cmdValid := true
    cmdOp := opField c
    cmdArr := arrField c
    cmdArg := argField c
    cmdByte := byteField c }

/-- The inputs of a cycle in which a host that meets its duties (R111) holds a command the block is not ready for: it offers
the next byte of its data operand, if it has one, and takes any byte presented. -/
def PortIn.held (c : CmdWord P) (s : Block P) : PortIn P :=
  { PortIn.ofWord c with
    wrValid := !s.wrData.isEmpty
    wrByte := s.wrData.headD 0
    rdReady := true }

/-- The edge at which a transaction-level command waits for a transfer in progress (R100, R106): the command is not
accepted and stays presented, one beat happens if it can. DESIGN CHOICE (log 10). -/
def Block.holdCommand (s : Block P) (c : CmdWord P) : Block P :=
  let t := s.wait (PortIn.held c s)
  if s.phase = phaseXferWr then t.consume 1 else t

/-- One step of the block with its host: the next thing the host presents happens. A whole command is executed at a
command boundary (PHASE = IDLE) and waits otherwise; a clock cycle is one edge; a host with nothing to present gives an idle
cycle (log 3, log 9, log 10). -/
def runNext (s : State) : Host.Outcome State Fault Refusal :=
  match s.block.host with
  | [] => s.onBlock (clockEdge PortIn.idle)
  | .cycle p :: rest => s.onBlock fun b => clockEdge p (b.present rest)
  | .command c d :: rest =>
    if cmdReady false s.block = true then exec (decode c) { s with block := (s.block.present rest).offer d }
    else s.onBlock fun b => .next (b.holdCommand c)

/-- The block at a command boundary, a number's command word presented as the next whole command with the data operand
the state offers; nothing else changes (log 8). -/
def Block.presentWord (s : Block P) (n : Nat) : Block P :=
  { s with phase := phaseIdle, remain := 0, host := .command (BitVec.ofNat (P.cntW + 12) n) s.wrData :: s.host }

end Sys2Proof.Machine
end

