-- ==== Sys2Proof/Machine/Step.lean ====
section
/-! DEFINITION. Step: one step of the machine, and the placing of a command where the next step runs it. -/

namespace Sys2Proof.Machine

/-- One step: what the host presents next happens (Cycle.lean, runNext). -/
def step : State → Host.Outcome State Fault Refusal :=
  fun s => runNext s

/-- The state with the command word numbered w (bits at or above nbits are 0) presented so that the next step runs it. -/
def State.withFetchWord (s : State) (nbits w : Nat) : State :=
  { s with block := s.block.presentWord (w % 2 ^ nbits) }

end Sys2Proof.Machine
end

