-- ==== Sys2Proof/Machine/Assembler.lean ====
section
/-! DEFINITION. Assembler: the command-stream syntax of 30_encoding.md R52: one command per line, a semicolon begins a comment, numbers decimal or hexadecimal with 0x, eleven spellings, each encoded canonically. Text is a list of characters. -/

namespace Sys2Proof.Machine

/-- A line of a command stream, its operands as numbers (R52). -/
inductive AsmLine where
  | init (cap : Nat)
  | initNull (cap : Nat)
  | put (byte : Nat)
  | get
  | peek (index : Nat)
  | flush
  | len
  | bulkReadQ
  | bulkRead (size : Nat)
  | bulkWriteQ
  | bulkWrite (size : Nat) (data : List Nat)
deriving DecidableEq, Repr

/-- The columns OP, ARR, ARG and BYTE of R52's table. -/
def AsmLine.fields : AsmLine → RawCommand
  | .init cap => { op := 0, arr := 1, arg := cap, byte := 0 }
  | .initNull cap => { op := 0, arr := 0, arg := cap, byte := 0 }
  | .put byte => { op := 1, arr := 0, arg := 0, byte := byte }
  | .get => { op := 2, arr := 0, arg := 0, byte := 0 }
  | .peek index => { op := 3, arr := 0, arg := index, byte := 0 }
  | .flush => { op := 4, arr := 0, arg := 0, byte := 0 }
  | .len => { op := 5, arr := 0, arg := 0, byte := 0 }
  | .bulkReadQ => { op := 6, arr := 0, arg := 0, byte := 0 }
  | .bulkRead size => { op := 6, arr := 1, arg := size, byte := 0 }
  | .bulkWriteQ => { op := 7, arr := 0, arg := 0, byte := 0 }
  | .bulkWrite size _ => { op := 7, arr := 1, arg := size, byte := 0 }

/-- The data operand D a line offers: the byte list of bulk_write, nothing for any other line (R52). -/
def AsmLine.data : AsmLine → List Nat
  | .init _ => []
  | .initNull _ => []
  | .put _ => []
  | .get => []
  | .peek _ => []
  | .flush => []
  | .len => []
  | .bulkReadQ => []
  | .bulkRead _ => []
  | .bulkWriteQ => []
  | .bulkWrite _ data => data

/-- Every field fits its port and every data byte is a byte (R10, R45). -/
def AsmLine.wf (w : Nat) (l : AsmLine) : Bool :=
  l.fields.wf w && l.data.all fun b => decide (b < 2 ^ 8)

/-- The canonical command word of a line (R51, R52). -/
def AsmLine.word (w : Nat) (l : AsmLine) : BitVec (w + 12) :=
  l.fields.word w

/-- A line as the host presents it: one whole command with its data operand. -/
def AsmLine.act (P : Params) (l : AsmLine) : HostAct P :=
  .command (l.word P.cntW) (l.data.map (BitVec.ofNat 8))

/-- The pieces of a line of text. -/
inductive AsmToken where
  | name (cs : List Char)
  | comma
  | openList
  | closeList
deriving DecidableEq, Repr

/-- The name read so far, its characters in reverse, as a token. -/
def AsmToken.ofAcc (acc : List Char) : List AsmToken :=
  if acc = [] then [] else [.name acc.reverse]

/-- Cut a line of text into tokens; a semicolon ends it (R52). Blanks are space, tab and carriage return. DESIGN CHOICE (log 16). -/
def lexLine (acc : List Char) : List Char → List AsmToken
  | [] => AsmToken.ofAcc acc
  | c :: cs =>
    if c = ';' then AsmToken.ofAcc acc
    else if c = ' ' ∨ c = '\t' ∨ c = '\r' then AsmToken.ofAcc acc ++ lexLine [] cs
    else if c = ',' then AsmToken.ofAcc acc ++ .comma :: lexLine [] cs
    else if c = '[' then AsmToken.ofAcc acc ++ .openList :: lexLine [] cs
    else if c = ']' then AsmToken.ofAcc acc ++ .closeList :: lexLine [] cs
    else lexLine (c :: acc) cs

/-- The value of a digit in a base up to 16. DESIGN CHOICE (log 16): hexadecimal digits in either case. -/
def digitValue (base : Nat) (c : Char) : Option Nat :=
  let v :=
    if '0'.toNat ≤ c.toNat ∧ c.toNat ≤ '9'.toNat then c.toNat - '0'.toNat
    else if 'a'.toNat ≤ c.toNat ∧ c.toNat ≤ 'f'.toNat then c.toNat - 'a'.toNat + 10
    else if 'A'.toNat ≤ c.toNat ∧ c.toNat ≤ 'F'.toNat then c.toNat - 'A'.toNat + 10
    else base
  if v < base then some v else none

/-- The value of a run of digits, after the digits already read. -/
def digitsValue (base acc : Nat) : List Char → Option Nat
  | [] => some acc
  | c :: cs =>
    match digitValue base c with
    | some v => digitsValue base (acc * base + v) cs
    | none => none

/-- A number: hexadecimal after 0x, else decimal (R52). -/
def parseNumber : List Char → Option Nat
  | [] => none
  | ['0', 'x'] => none
  | '0' :: 'x' :: d :: ds => digitsValue 16 0 (d :: ds)
  | d :: ds => digitsValue 10 0 (d :: ds)

/-- The rest of a byte list after its opening bracket or after a comma: b, b, ... ] and nothing more. -/
def parseBytes : List AsmToken → Option (List Nat)
  | [.name cs, .closeList] =>
    match parseNumber cs with
    | some n => some [n]
    | none => none
  | .name cs :: .comma :: ts =>
    match parseNumber cs, parseBytes ts with
    | some n, some ns => some (n :: ns)
    | _, _ => none
  | _ => none

/-- A line that has no operand, by its mnemonic. -/
def parseBare (m : List Char) : Option AsmLine :=
  if m = "get".toList then some .get
  else if m = "flush".toList then some .flush
  else if m = "len".toList then some .len
  else if m = "bulk_read.q".toList then some .bulkReadQ
  else if m = "bulk_write.q".toList then some .bulkWriteQ
  else none

/-- A line that has one number as its operand, by its mnemonic. -/
def parseUnary (m : List Char) (n : Nat) : Option AsmLine :=
  if m = "init".toList then some (.init n)
  else if m = "init.null".toList then some (.initNull n)
  else if m = "put".toList then some (.put n)
  else if m = "peek".toList then some (.peek n)
  else if m = "bulk_read".toList then some (.bulkRead n)
  else none

/-- One line's tokens as a command: the eleven spellings of R52, and nothing else. -/
def parseTokens : List AsmToken → Option AsmLine
  | [.name m] => parseBare m
  | [.name m, .name n] =>
    match parseNumber n with
    | some v => parseUnary m v
    | none => none
  | .name m :: .name n :: .comma :: .openList :: ts =>
    if m = "bulk_write".toList then
      match parseNumber n, (if ts = [.closeList] then some [] else parseBytes ts) with
      | some v, some d => some (.bulkWrite v d)
      | _, _ => none
    else none
  | _ => none

/-- The lines of a text. -/
def splitLines (acc : List Char) : List Char → List (List Char)
  | [] => [acc.reverse]
  | c :: cs => if c = '\n' then acc.reverse :: splitLines [] cs else splitLines (c :: acc) cs

/-- The commands of lines of text; a line with no token holds none, and a line that is no well-formed command refuses the
whole text (log 16). -/
def assembleLines (w : Nat) : List (List Char) → Option (List AsmLine)
  | [] => some []
  | l :: ls =>
    match lexLine [] l, assembleLines w ls with
    | [], rest => rest
    | ts, some rest =>
      match parseTokens ts with
      | some line => if line.wf w = true then some (line :: rest) else none
      | none => none
    | _ :: _, none => none

/-- A command stream from its text (R52), for a block with CNT_W = w. -/
def assemble (w : Nat) (text : List Char) : Option (List AsmLine) :=
  assembleLines w (splitLines [] text)

end Sys2Proof.Machine
end

