-- ==== Sys2Proof/Machine/Blocks.lean ====
section
/-! DEFINITION. Blocks: several instances of the block, each with its own state and its own ports (60_exceptions.md R96). -/

namespace Sys2Proof.Machine

/-- One instance of several takes a step, on its own ports; the others keep their states (R96). An instance that does not
exist takes none. -/
def stepInstance (k : Nat) (blocks : List State) : Host.Outcome (List State) Fault Refusal :=
  match blocks[k]? with
  | none => .next blocks
  | some s =>
    match step s with
    | .next t => .next (blocks.set k t)
    | .fault f => .fault f
    | .refused r => .refused r

end Sys2Proof.Machine
end

