-- ==== Sys2Proof/Safety.lean ====
section
/-! DEFINITION. Safety: the terms claims about runs are stated in: the abstract queue and the invariants of 10_state.md R29, what a command can observe (R30), and the data a transfer's beats carry. -/

namespace Sys2Proof.Machine

variable {P : Params}

/-- The abstract queue Q = [STORE[idx(RD_POS + i)] for i = 0 .. len() - 1], oldest byte first (R29). -/
def Block.queue (s : Block P) : List Byte :=
  s.readRun s.rdPos s.len.toNat

/-- Every unread byte is in a cell something has written (the part of R29 (I4) that the counters do not give). -/
def Block.LiveWritten (s : Block P) : Prop :=
  ∀ i, i < s.len.toNat → (Memory.read s.store (s.idx (s.rdPos + BitVec.ofNat P.cntW i)).toNat).isSome = true

/-- The invariants of R29 and of the registers around them (R20, R26, R47), at every clock edge. -/
structure Inv (s : Block P) : Prop where
  /-- STORE keeps its canonical form, with no cell outside 0 .. CAP_MAX - 1 (R31). -/
  storeWf : Memory.wf P.capMax s.store = true
  /-- Status code 7 is never in RSP_STATUS (R47). -/
  statusNamed : s.rspStatus ≠ 7
  /-- PHASE is never 0b11 (R26). -/
  phaseNamed : s.phase ≠ 0b11#2
  /-- (I1), and an uninitialized block is at a command boundary. -/
  uninitialized : s.initDone = false → s.rdPos = 0 ∧ s.wrPos = 0 ∧ s.mask = 0 ∧ s.phase = phaseIdle
  /-- (I2): C = MASK + 1 is a power of two, at most CAP_MAX. -/
  capacity : s.initDone = true → ∃ k, k ≤ P.awMax ∧ s.mask.toNat + 1 = 2 ^ k
  /-- (I3): len() is at most C. -/
  lenBound : s.len.toNat ≤ s.mask.toNat + 1
  /-- (I4), the cells written. -/
  liveWritten : s.LiveWritten
  /-- No beat is owed at a command boundary (R26). -/
  idleRemain : s.phase = phaseIdle → s.remain = 0
  /-- The beats a write transfer owes fit the free space (R104). -/
  writeRemain : s.phase = phaseXferWr → 0 < s.remain.toNat ∧ s.len.toNat + s.remain.toNat ≤ s.mask.toNat + 1
  /-- The beats a read transfer owes are buffered (R105). -/
  readRemain : s.phase = phaseXferRd → 0 < s.remain.toNat ∧ s.remain.toNat ≤ s.len.toNat

/-- Two states that differ at most in what no command can observe: the storage cells outside the live window (R30). -/
structure SameView (s t : Block P) : Prop where
  initDone : s.initDone = t.initDone
  mask : s.mask = t.mask
  rdPos : s.rdPos = t.rdPos
  wrPos : s.wrPos = t.wrPos
  queue : s.queue = t.queue
  rspValid : s.rspValid = t.rspValid
  rspStatus : s.rspStatus = t.rspStatus
  rspByte : s.rspByte = t.rspByte
  rspCount : s.rspCount = t.rspCount
  phase : s.phase = t.phase
  remain : s.remain = t.remain
  host : s.host = t.host
  wrData : s.wrData = t.wrData
  rdStream : s.rdStream = t.rdStream

/-- The five registers of "state unchanged" (40_initialize.md): INIT_DONE, MASK, RD_POS, WR_POS and STORE. -/
structure SameArch (s t : Block P) : Prop where
  initDone : s.initDone = t.initDone
  mask : s.mask = t.mask
  rdPos : s.rdPos = t.rdPos
  wrPos : s.wrPos = t.wrPos
  store : s.store = t.store

/-- The bytes the write beats of a run of cycles carry, in beat order (70_reset_and_hazards.md R104). -/
def writeBytes (ps : List (PortIn P)) : List Byte :=
  (ps.filter fun p => p.wrValid).map fun p => p.wrByte

/-- How many read beats a run of cycles allows (R105). -/
def readBeats (ps : List (PortIn P)) : Nat :=
  (ps.filter fun p => p.rdReady).length

/-- Commands executed one after another at the transaction level, each of them ending with status OK: the last state and
the response bytes, in order; none where a command ends otherwise. -/
def runOk : List Instr → State → Option (State × List Byte)
  | [], s => some (s, [])
  | i :: is, s =>
    match exec i s with
    | .next t =>
      if t.block.rspStatus = 0 then
        match runOk is t with
        | some (u, bs) => some (u, t.block.rspByte :: bs)
        | none => none
      else none
    | .fault _ => none
    | .refused _ => none

end Sys2Proof.Machine
end

