-- ==== Sys2Proof/Certificates/Slice0/Obligations.lean ====
section
/-! DEFINITION. Certificates/Slice0/Obligations: the statements for the provers, each about the machine at all parameters P (⟨P, s⟩ is the machine with parameters P and block s) and none about a program. A next state is written as an update of the state before, so that what is not named there is unchanged. -/

open Sys2Proof Sys2Proof.Machine

/-! ### Encoding -/

/-- The command word's layout, for every counter width w = CNT_W: its number is OP + 8 ARR + 16 BYTE + 4096 ARG, and the
field readers give each field back (30_encoding.md R46). -/
def Obligations.CommandWordLayout : Prop :=
  ∀ (w : Nat) (arg : BitVec w) (byte : BitVec 8) (arr : Bool) (op : BitVec 3),
    (packWord arg byte arr op).toNat = op.toNat + 8 * arr.toNat + 16 * byte.toNat + 4096 * arg.toNat ∧
    opField (packWord arg byte arr op) = op ∧
    arrField (packWord arg byte arr op) = arr ∧
    byteField (packWord arg byte arr op) = byte ∧
    argField (packWord arg byte arr op) = arg

/-- For every CNT_W, decoding the canonical word of any well-formed command gives the command back, and every word decodes
to a well-formed command (30_encoding.md R49, R51). -/
def Obligations.DecodeEncodeRoundTrip : Prop :=
  (∀ (w : Nat) (i : Instr), i.wf w = true → decode (encode w i) = i) ∧
  (∀ (w : Nat) (c : BitVec (w + 12)), (decode c).wf w = true)

/-- For every CNT_W, fields a command does not use are ignored, for every value of them, and its canonical word has them 0
(30_encoding.md R50, R51). -/
def Obligations.UnusedFieldsIgnored : Prop :=
  ∀ (w : Nat) (arg : BitVec w) (byte : Byte) (arr : Bool),
    (decode (packWord arg byte arr 0) = .init arr arg.toNat ∧ encode w (.init arr arg.toNat) = packWord arg 0 arr 0) ∧
    (decode (packWord arg byte arr 1) = .put byte ∧ encode w (.put byte) = packWord 0 byte false 1) ∧
    (decode (packWord arg byte arr 2) = .get ∧ encode w .get = packWord 0 0 false 2) ∧
    (decode (packWord arg byte arr 3) = .peek arg.toNat ∧ encode w (.peek arg.toNat) = packWord arg 0 false 3) ∧
    (decode (packWord arg byte arr 4) = .flush ∧ encode w .flush = packWord 0 0 false 4) ∧
    (decode (packWord arg byte arr 5) = .len ∧ encode w .len = packWord 0 0 false 5) ∧
    (decode (packWord arg byte false 6) = .bulkReadQ ∧ encode w .bulkReadQ = packWord 0 0 false 6) ∧
    (decode (packWord arg byte true 6) = .bulkRead arg.toNat ∧ encode w (.bulkRead arg.toNat) = packWord arg 0 true 6) ∧
    (decode (packWord arg byte false 7) = .bulkWriteQ ∧ encode w .bulkWriteQ = packWord 0 0 false 7) ∧
    (decode (packWord arg byte true 7) = .bulkWrite arg.toNat ∧ encode w (.bulkWrite arg.toNat) = packWord arg 0 true 7)

/-- For every CNT_W, a word matches a row of the opcode table exactly when it decodes to that row's command
(30_encoding.md R49; spec/opcode_table.json), and every word matches some row. -/
def Obligations.DecodeFollowsOpcodeTable : Prop :=
  ∀ (w : Nat) (c : BitVec (w + 12)),
    (∀ row ∈ opcodeRows, c.extractLsb' 0 4 &&& row.2.2 = row.2.1 ↔ (decode c).mnemonic = row.1) ∧
    (∃ row ∈ opcodeRows, c.extractLsb' 0 4 &&& row.2.2 = row.2.1)

/-- Command words written out from the encoding at the reference CNT_W, canonical and not, decode to the commands they stand
for (95_test_vectors.md W1, V-INIT and V-DEC). -/
def Obligations.WrittenWordsDecode : Prop :=
  decode 0x00000008008#44 = .init true 8 ∧ decode 0x00000008000#44 = .init false 8 ∧
  decode 0x00000000ff1#44 = .put 0xff ∧ decode 0x00000123aa9#44 = .put 0xaa ∧ decode 0x0000000ff0a#44 = .get ∧
  decode 0xffffffff003#44 = .peek 0xffffffff ∧ decode 0x0000000ee0c#44 = .flush ∧ decode 0xfffffffff5d#44 = .len ∧
  decode 0x00000064006#44 = .bulkReadQ ∧ decode 0x0000006400e#44 = .bulkRead 100 ∧
  decode 0x000000077f7#44 = .bulkWriteQ ∧ decode 0x0000000600f#44 = .bulkWrite 6

/-- For every CNT_W, the word of every well-formed line of the command-stream syntax is the canonical spelling of the command
it decodes to, and that command is the line's (30_encoding.md R51, R52). -/
def Obligations.AssemblerLinesAreCanonical : Prop :=
  ∀ (w : Nat) (l : AsmLine), l.wf w = true →
    encode w (decode (l.word w)) = l.word w ∧
    decode (l.word w) =
      (match l with
      | .init cap => .init true cap
      | .initNull cap => .init false cap
      | .put byte => .put (BitVec.ofNat 8 byte)
      | .get => .get
      | .peek index => .peek index
      | .flush => .flush
      | .len => .len
      | .bulkReadQ => .bulkReadQ
      | .bulkRead size => .bulkRead size
      | .bulkWriteQ => .bulkWriteQ
      | .bulkWrite size _ => .bulkWrite size)

/-- Model's choice (log 17): an operand number that does not fit the cmd_arg port acts as its low CNT_W bits do. No decoded
command has such an operand. -/
def Obligations.OperandsAreCutToThePort : Prop :=
  ∀ (s : State) (arr : Bool) (n : Nat),
    exec (.init arr n) s = exec (.init arr (n % 2 ^ s.params.cntW)) s ∧
    exec (.peek n) s = exec (.peek (n % 2 ^ s.params.cntW)) s ∧
    exec (.bulkRead n) s = exec (.bulkRead (n % 2 ^ s.params.cntW)) s ∧
    exec (.bulkWrite n) s = exec (.bulkWrite (n % 2 ^ s.params.cntW)) s

/-! ### One step -/

/-- The parameters are configuration: no command and no step changes them (00_scope.md R11). -/
def Obligations.ParametersNeverChange : Prop :=
  (∀ (s t : State) (i : Instr), exec i s = .next t → t.params = s.params) ∧
  (∀ s t : State, step s = .next t → t.params = s.params)

/-- A whole command presented at a command boundary runs the command its word decodes to, with its data operand; so does the
word placed by withFetchWord, at any parameters, and the command is decodeTableWord's at the table's CNT_W (log 3, log 8). -/
def Obligations.StepRunsDecodedCommand : Prop :=
  (∀ (P : Params) (s : Block P) (c : CmdWord P) (d : List Byte) (rest : List (HostAct P)),
    s.host = .command c d :: rest → s.phase = phaseIdle →
      step ⟨P, s⟩ = exec (decode c) ⟨P, { s with host := rest, wrData := d }⟩) ∧
  (∀ (P : Params) (s : Block P) (nbits w : Nat) (i : Instr), decodeNumber P.cntW (w % 2 ^ nbits) = .ok i →
      step (State.withFetchWord ⟨P, s⟩ nbits w) = exec i ⟨P, { s with phase := phaseIdle, remain := 0 }⟩) ∧
  (∀ (nbits w : Nat) (i : Instr),
    decodeTableWord nbits w = some i ↔ decodeNumber State.reset.params.cntW (w % 2 ^ nbits) = .ok i)

/-- The other steps: a clock cycle the host presents is one clock edge; with nothing presented the block sees an idle cycle;
a whole command presented during a transfer stays presented while the host moves the transfer's beats (log 3, log 9, log 10). -/
def Obligations.StepOfCyclesAndWaits : Prop :=
  (∀ (P : Params) (s : Block P) (p : PortIn P) (rest : List (HostAct P)), s.host = .cycle p :: rest →
      step ⟨P, s⟩ = liftBlock P (clockEdge p { s with host := rest })) ∧
  (∀ (P : Params) (s : Block P), s.host = [] → step ⟨P, s⟩ = liftBlock P (clockEdge PortIn.idle s)) ∧
  (∀ (P : Params) (s : Block P) (c : CmdWord P) (d : List Byte) (rest : List (HostAct P)),
    s.host = .command c d :: rest → s.phase = phaseXferRd →
      step ⟨P, s⟩ = liftBlock P (clockEdge { PortIn.ofWord c with rdReady := true } s)) ∧
  (∀ (P : Params) (s : Block P) (c : CmdWord P) (d : List Byte) (rest : List (HostAct P)) (b : Byte) (bs : List Byte),
    s.host = .command c d :: rest → s.phase = phaseXferWr → s.wrData = b :: bs →
      ∃ t, clockEdge { PortIn.ofWord c with wrValid := true, wrByte := b } s = .next t ∧
        step ⟨P, s⟩ = .next ⟨P, { t with wrData := bs }⟩)

/-- The acceptance edge: a command that starts no transfer applies its rule (70_reset_and_hazards.md R100, R101, R102). -/
def Obligations.CycleAcceptRunsDecodedCommand : Prop :=
  ∀ (P : Params) (s : Block P) (p : PortIn P), p.rst = false → p.cmdValid = true → s.phase = phaseIdle →
    (∀ size, decodeFields p.cmdOp p.cmdArr p.cmdArg p.cmdByte ≠ .bulkRead size) →
    (∀ size, decodeFields p.cmdOp p.cmdArr p.cmdArg p.cmdByte ≠ .bulkWrite size) →
      liftBlock P (clockEdge p s) = exec (decodeFields p.cmdOp p.cmdArr p.cmdArg p.cmdByte) ⟨P, s⟩

/-! ### The commands -/

/-- INIT (40_initialize.md R53 to R55, R57): NULL_STORAGE first; INVALID_CAPACITY unless C is a power of two of at most
CAP_MAX; else the four registers are written, and STORE is not. -/
def Obligations.InitRule : Prop :=
  (∀ (w : Nat) (cap : BitVec w) (byte : Byte) (arr : Bool), decode (packWord cap byte arr 0) = .init arr cap.toNat ∧
    encode w (.init arr cap.toNat) = packWord cap 0 arr 0) ∧
  ∀ (P : Params) (s : Block P) (cap : Count P),
    exec (.init false cap.toNat) ⟨P, s⟩ =
      .next ⟨P, { s with rspValid := true, rspStatus := 2, rspByte := 0, rspCount := 0 }⟩ ∧
    (¬ (cap ≠ 0 ∧ cap &&& (cap - 1) = 0 ∧ cap.toNat ≤ P.capMax) →
      exec (.init true cap.toNat) ⟨P, s⟩ =
        .next ⟨P, { s with rspValid := true, rspStatus := 6, rspByte := 0, rspCount := 0 }⟩) ∧
    (cap ≠ 0 → cap &&& (cap - 1) = 0 → cap.toNat ≤ P.capMax →
      exec (.init true cap.toNat) ⟨P, s⟩ =
        .next ⟨P, { s with
          initDone := true, mask := cap - 1, rdPos := 0, wrPos := 0,
          rspValid := true, rspStatus := 0, rspByte := 0, rspCount := 0 }⟩)

/-- LEN (41_length.md R61): always OK with count WR_POS - RD_POS, which is 0 on an uninitialized block. -/
def Obligations.LenRule : Prop :=
  (∀ (w : Nat) (arg : BitVec w) (byte : Byte) (arr : Bool), decode (packWord arg byte arr 5) = .len ∧
    encode w .len = packWord 0 0 false 5) ∧
  encode 32 .len = 0x00000000005#44 ∧
  (∀ (P : Params) (s : Block P), exec .len ⟨P, s⟩ =
    .next ⟨P, { s with rspValid := true, rspStatus := 0, rspByte := 0, rspCount := s.wrPos - s.rdPos }⟩) ∧
  (∀ (P : Params) (s : Block P), Inv s → s.initDone = false →
    exec .len ⟨P, s⟩ = .next ⟨P, { s with rspValid := true, rspStatus := 0, rspByte := 0, rspCount := 0 }⟩)

/-- PUT (42_single_element.md R63). -/
def Obligations.PutRule : Prop :=
  (∀ (w : Nat) (arg : BitVec w) (byte : Byte) (arr : Bool), decode (packWord arg byte arr 1) = .put byte ∧
    encode w (.put byte) = packWord 0 byte false 1) ∧
  ∀ (P : Params) (s : Block P) (b : Byte),
    (s.initDone = false →
      exec (.put b) ⟨P, s⟩ = .next ⟨P, { s with rspValid := true, rspStatus := 1, rspByte := 0, rspCount := 0 }⟩) ∧
    (s.initDone = true → ¬ s.wrPos - s.rdPos ≤ s.mask →
      exec (.put b) ⟨P, s⟩ = .next ⟨P, { s with rspValid := true, rspStatus := 3, rspByte := 0, rspCount := 0 }⟩) ∧
    (s.initDone = true → s.wrPos - s.rdPos ≤ s.mask →
      exec (.put b) ⟨P, s⟩ =
        .next ⟨P, { s with
          store := Memory.write s.store ((s.wrPos &&& s.mask).setWidth P.awMax).toNat b, wrPos := s.wrPos + 1,
          rspValid := true, rspStatus := 0, rspByte := 0, rspCount := 0 }⟩)

/-- GET (42_single_element.md R64); the byte is Q[0]. -/
def Obligations.GetRule : Prop :=
  (∀ (w : Nat) (arg : BitVec w) (byte : Byte) (arr : Bool), decode (packWord arg byte arr 2) = .get ∧
    encode w .get = packWord 0 0 false 2) ∧
  encode 32 .get = 0x00000000002#44 ∧
  ∀ (P : Params) (s : Block P),
    (s.initDone = false →
      exec .get ⟨P, s⟩ = .next ⟨P, { s with rspValid := true, rspStatus := 1, rspByte := 0, rspCount := 0 }⟩) ∧
    (s.initDone = true → s.wrPos - s.rdPos = 0 →
      exec .get ⟨P, s⟩ = .next ⟨P, { s with rspValid := true, rspStatus := 4, rspByte := 0, rspCount := 0 }⟩) ∧
    (s.initDone = true → s.wrPos - s.rdPos ≠ 0 →
      exec .get ⟨P, s⟩ =
        .next ⟨P, { s with
          rdPos := s.rdPos + 1, rspValid := true, rspStatus := 0,
          rspByte := s.memRead ((s.rdPos &&& s.mask).setWidth P.awMax), rspCount := 0 }⟩ ∧
      s.queue[0]? = some (s.memRead ((s.rdPos &&& s.mask).setWidth P.awMax)))

/-- PEEK (42_single_element.md R65); the byte is Q[ARG]. -/
def Obligations.PeekRule : Prop :=
  (∀ (w : Nat) (arg : BitVec w) (byte : Byte) (arr : Bool), decode (packWord arg byte arr 3) = .peek arg.toNat ∧
    encode w (.peek arg.toNat) = packWord arg 0 false 3) ∧
  ∀ (P : Params) (s : Block P) (k : Count P),
    (s.initDone = false →
      exec (.peek k.toNat) ⟨P, s⟩ = .next ⟨P, { s with rspValid := true, rspStatus := 1, rspByte := 0, rspCount := 0 }⟩) ∧
    (s.initDone = true → ¬ k < s.wrPos - s.rdPos →
      exec (.peek k.toNat) ⟨P, s⟩ = .next ⟨P, { s with rspValid := true, rspStatus := 5, rspByte := 0, rspCount := 0 }⟩) ∧
    (s.initDone = true → k < s.wrPos - s.rdPos →
      exec (.peek k.toNat) ⟨P, s⟩ =
        .next ⟨P, { s with
          rspValid := true, rspStatus := 0,
          rspByte := s.memRead (((s.rdPos + k) &&& s.mask).setWidth P.awMax), rspCount := 0 }⟩ ∧
      s.queue[k.toNat]? = some (s.memRead (((s.rdPos + k) &&& s.mask).setWidth P.awMax)))

/-- FLUSH (42_single_element.md R66). -/
def Obligations.FlushRule : Prop :=
  (∀ (w : Nat) (arg : BitVec w) (byte : Byte) (arr : Bool), decode (packWord arg byte arr 4) = .flush ∧
    encode w .flush = packWord 0 0 false 4) ∧
  encode 32 .flush = 0x00000000004#44 ∧
  ∀ (P : Params) (s : Block P),
    (s.initDone = false →
      exec .flush ⟨P, s⟩ = .next ⟨P, { s with rspValid := true, rspStatus := 0, rspByte := 0, rspCount := 0 }⟩) ∧
    (s.initDone = true →
      exec .flush ⟨P, s⟩ =
        .next ⟨P, { s with rdPos := s.wrPos, rspValid := true, rspStatus := 0, rspByte := 0, rspCount := 0 }⟩)

/-- BULK_READ.Q (43_bulk_transfer.md R74). -/
def Obligations.BulkReadQueryRule : Prop :=
  (∀ (w : Nat) (arg : BitVec w) (byte : Byte), decode (packWord arg byte false 6) = .bulkReadQ ∧
    encode w .bulkReadQ = packWord 0 0 false 6) ∧
  encode 32 .bulkReadQ = 0x00000000006#44 ∧
  ∀ (P : Params) (s : Block P),
    (s.initDone = false →
      exec .bulkReadQ ⟨P, s⟩ = .next ⟨P, { s with rspValid := true, rspStatus := 1, rspByte := 0, rspCount := 0 }⟩) ∧
    (s.initDone = true → s.wrPos - s.rdPos = 0 →
      exec .bulkReadQ ⟨P, s⟩ = .next ⟨P, { s with rspValid := true, rspStatus := 4, rspByte := 0, rspCount := 0 }⟩) ∧
    (s.initDone = true → s.wrPos - s.rdPos ≠ 0 →
      exec .bulkReadQ ⟨P, s⟩ =
        .next ⟨P, { s with rspValid := true, rspStatus := 0, rspByte := 0, rspCount := s.wrPos - s.rdPos }⟩)

/-- BULK_READ (43_bulk_transfer.md R75): `out` is what is appended to the bytes the host has taken (rdStream, log 7). What
RSP_VALID is once the beats have moved is not this rule's (TransferResponseIsOver). -/
def Obligations.BulkReadRule : Prop :=
  (∀ (w : Nat) (arg : BitVec w) (byte : Byte), decode (packWord arg byte true 6) = .bulkRead arg.toNat ∧
    encode w (.bulkRead arg.toNat) = packWord arg 0 true 6) ∧
  ∀ (P : Params) (s : Block P) (size : Count P),
    (s.initDone = false →
      exec (.bulkRead size.toNat) ⟨P, s⟩ = .next ⟨P, { s with rspValid := true, rspStatus := 1, rspByte := 0, rspCount := 0 }⟩) ∧
    (s.initDone = true → s.wrPos - s.rdPos = 0 →
      exec (.bulkRead size.toNat) ⟨P, s⟩ = .next ⟨P, { s with rspValid := true, rspStatus := 4, rspByte := 0, rspCount := 0 }⟩) ∧
    (s.initDone = true → s.wrPos - s.rdPos ≠ 0 →
      ∃ (n : Count P) (v : Bool), n.toNat = min size.toNat (s.wrPos - s.rdPos).toNat ∧
        exec (.bulkRead size.toNat) ⟨P, s⟩ =
          .next ⟨P, { s with
            rdPos := s.rdPos + n,
            rdStream := s.rdStream ++ (List.range n.toNat).map fun k =>
              s.memRead (((s.rdPos + BitVec.ofNat P.cntW k) &&& s.mask).setWidth P.awMax),
            rspValid := v, rspStatus := 0, rspByte := 0, rspCount := n }⟩)

/-- BULK_WRITE.Q (43_bulk_transfer.md R76). -/
def Obligations.BulkWriteQueryRule : Prop :=
  (∀ (w : Nat) (arg : BitVec w) (byte : Byte), decode (packWord arg byte false 7) = .bulkWriteQ ∧
    encode w .bulkWriteQ = packWord 0 0 false 7) ∧
  encode 32 .bulkWriteQ = 0x00000000007#44 ∧
  ∀ (P : Params) (s : Block P),
    (s.initDone = false →
      exec .bulkWriteQ ⟨P, s⟩ = .next ⟨P, { s with rspValid := true, rspStatus := 1, rspByte := 0, rspCount := 0 }⟩) ∧
    (s.initDone = true → s.mask - (s.wrPos - s.rdPos) + 1 = 0 →
      exec .bulkWriteQ ⟨P, s⟩ = .next ⟨P, { s with rspValid := true, rspStatus := 3, rspByte := 0, rspCount := 0 }⟩) ∧
    (s.initDone = true → s.mask - (s.wrPos - s.rdPos) + 1 ≠ 0 →
      exec .bulkWriteQ ⟨P, s⟩ =
        .next ⟨P, { s with
          rspValid := true, rspStatus := 0, rspByte := 0, rspCount := s.mask - (s.wrPos - s.rdPos) + 1 }⟩)

/-- BULK_WRITE (43_bulk_transfer.md R77): the first n bytes of the data operand D (wrData, log 7) are written one after
another at idx(WR_POS + k), the bytes beyond n are left; with fewer than n bytes the command has no step (R83). What RSP_VALID
is once the beats have moved is not this rule's (TransferResponseIsOver). -/
def Obligations.BulkWriteRule : Prop :=
  (∀ (w : Nat) (arg : BitVec w) (byte : Byte), decode (packWord arg byte true 7) = .bulkWrite arg.toNat ∧
    encode w (.bulkWrite arg.toNat) = packWord arg 0 true 7) ∧
  ∀ (P : Params) (s : Block P) (size : Count P),
    (s.initDone = false →
      exec (.bulkWrite size.toNat) ⟨P, s⟩ = .next ⟨P, { s with rspValid := true, rspStatus := 1, rspByte := 0, rspCount := 0 }⟩) ∧
    (s.initDone = true → s.mask - (s.wrPos - s.rdPos) + 1 = 0 →
      exec (.bulkWrite size.toNat) ⟨P, s⟩ = .next ⟨P, { s with rspValid := true, rspStatus := 3, rspByte := 0, rspCount := 0 }⟩) ∧
    (s.initDone = true → s.mask - (s.wrPos - s.rdPos) + 1 ≠ 0 →
      ∃ n : Count P, n.toNat = min size.toNat (s.mask - (s.wrPos - s.rdPos) + 1).toNat ∧
        (s.wrData.length < n.toNat → exec (.bulkWrite size.toNat) ⟨P, s⟩ = .fault .shortData) ∧
        (n.toNat ≤ s.wrData.length → ∃ v : Bool,
          exec (.bulkWrite size.toNat) ⟨P, s⟩ =
            .next ⟨P, { s with
              store := (List.range n.toNat).foldl (fun m k =>
                Memory.write m (((s.wrPos + BitVec.ofNat P.cntW k) &&& s.mask).setWidth P.awMax).toNat (s.wrData.getD k 0)) s.store,
              wrPos := s.wrPos + n, wrData := s.wrData.drop n.toNat,
              rspValid := v, rspStatus := 0, rspByte := 0, rspCount := n }⟩))

/-- Model's reading (log 4): a transfer-mode bulk command that ends OK leaves RSP_VALID 1 exactly when it moved nothing; with
n > 0 bytes moved, the one cycle of its response is over when its last beat is done. -/
def Obligations.TransferResponseIsOver : Prop :=
  ∀ (P : Params) (s t : Block P) (size : Count P),
    (exec (.bulkRead size.toNat) ⟨P, s⟩ = .next ⟨P, t⟩ → t.rspStatus = 0 → (t.rspValid = true ↔ t.rspCount = 0)) ∧
    (exec (.bulkWrite size.toNat) ⟨P, s⟩ = .next ⟨P, t⟩ → t.rspStatus = 0 → (t.rspValid = true ↔ t.rspCount = 0))

/-! ### What a command leaves alone -/

/-- Frame of the commands that store nothing (20_memory.md R32, R39; 40_initialize.md R58): every cell reads as before. -/
def Obligations.NonStoringCommandsLeaveStore : Prop :=
  ∀ (P : Params) (s t : Block P) (i : Instr), (∀ b, i ≠ .put b) → (∀ size, i ≠ .bulkWrite size) →
    exec i ⟨P, s⟩ = .next ⟨P, t⟩ → t.store = s.store ∧ ∀ j : Index P, t.memRead j = s.memRead j

/-- Frame of the storing commands over the storage: after a PUT that ends OK the cell idx(WR_POS) holds the byte and every
other cell reads as before; after a BULK_WRITE that ends OK every cell outside idx(WR_POS + k), k < n, reads as before
(42_single_element.md R63; 43_bulk_transfer.md R77, R82). -/
def Obligations.StoringCommandsFrame : Prop :=
  (∀ (P : Params) (s t : Block P) (b : Byte), exec (.put b) ⟨P, s⟩ = .next ⟨P, t⟩ → t.rspStatus = 0 →
    ∀ j : Index P, t.memRead j = if j = s.idx s.wrPos then b else s.memRead j) ∧
  (∀ (P : Params) (s t : Block P) (size : Count P), exec (.bulkWrite size.toNat) ⟨P, s⟩ = .next ⟨P, t⟩ → t.rspStatus = 0 →
    ∀ j : Index P, (∀ k, k < t.rspCount.toNat → j ≠ s.idx (s.wrPos + BitVec.ofNat P.cntW k)) →
      t.memRead j = s.memRead j)

/-- After a BULK_WRITE that ends OK with count n, cell idx(WR_POS + k) holds D[k] for every k < n: no byte of the transfer
is written over by a later one (43_bulk_transfer.md R77, R82). -/
def Obligations.BulkWriteStoresItsData : Prop :=
  ∀ (P : Params) (s t : Block P) (size : Count P), Inv s → exec (.bulkWrite size.toNat) ⟨P, s⟩ = .next ⟨P, t⟩ → t.rspStatus = 0 →
    ∀ k, k < t.rspCount.toNat →
      s.wrData[k]? = some (t.memRead (s.idx (s.wrPos + BitVec.ofNat P.cntW k)))

/-- Whole machine (10_state.md R19, R20): no command but an INIT with ARR = 1 changes INIT_DONE or MASK, and no step changes
INIT_DONE from 1 to 0 but a reset edge. -/
def Obligations.InitDoneClearedOnlyByReset : Prop :=
  (∀ (P : Params) (s t : Block P) (i : Instr), (∀ cap, i ≠ .init true cap) → exec i ⟨P, s⟩ = .next ⟨P, t⟩ →
    t.initDone = s.initDone ∧ t.mask = s.mask) ∧
  (∀ (P : Params) (s t : Block P), (∀ p rest, s.host = .cycle p :: rest → p.rst = false) → s.initDone = true → step ⟨P, s⟩ = .next ⟨P, t⟩ →
    t.initDone = true)

/-- Every failure leaves everything but the response as it was, and its response has byte 0 and count 0; the acceptance edge
of the cycle level does the same (60_exceptions.md R88). -/
def Obligations.FailuresWriteOnlyTheResponse : Prop :=
  ∀ (P : Params) (s t : Block P) (i : Instr), exec i ⟨P, s⟩ = .next ⟨P, t⟩ ∨ accept i s = .next t → t.rspStatus ≠ 0 →
    t = { s with rspValid := true, rspStatus := t.rspStatus, rspByte := 0, rspCount := 0 }

/-! ### Statuses -/

/-- Each status of a response comes from exactly the commands and conditions of the table (60_exceptions.md R87, R90; C is
MASK + 1), a failure records byte 0 and count 0, and status code 7 comes from no command (30_encoding.md R47). -/
def Obligations.StatusConditions : Prop :=
  ∀ (P : Params) (s t : Block P) (i : Instr), Inv s → i.wf P.cntW = true → exec i ⟨P, s⟩ = .next ⟨P, t⟩ →
    (t.rspStatus = 1 ↔ s.initDone = false ∧ i ≠ .flush ∧ i ≠ .len ∧ ∀ arr cap, i ≠ .init arr cap) ∧
    (t.rspStatus = 2 ↔ ∃ cap, i = .init false cap) ∧
    (t.rspStatus = 3 ↔ s.initDone = true ∧ s.len.toNat = s.mask.toNat + 1 ∧
      (i = .bulkWriteQ ∨ (∃ b, i = .put b) ∨ ∃ size, i = .bulkWrite size)) ∧
    (t.rspStatus = 4 ↔ s.initDone = true ∧ s.len.toNat = 0 ∧ (i = .get ∨ i = .bulkReadQ ∨ ∃ size, i = .bulkRead size)) ∧
    (t.rspStatus = 5 ↔ s.initDone = true ∧ ∃ k, i = .peek k ∧ s.len.toNat ≤ k) ∧
    (t.rspStatus = 6 ↔ ∃ cap, i = .init true cap ∧ ¬ ∃ k, k ≤ P.awMax ∧ cap = 2 ^ k) ∧
    (t.rspStatus ≠ 0 → t.rspByte = 0 ∧ t.rspCount = 0) ∧
    t.rspStatus ≠ 7

/-- The status codes and their names, and the reserved code (30_encoding.md R47). -/
def Obligations.StatusCodesNamed : Prop :=
  (Status.ok.code = 0 ∧ Status.notInitialized.code = 1 ∧ Status.nullStorage.code = 2 ∧ Status.full.code = 3 ∧
    Status.empty.code = 4 ∧ Status.outOfRange.code = 5 ∧ Status.invalidCapacity.code = 6) ∧
  (∀ (c : BitVec 3) (st : Status), Status.ofCode c = some st ↔ st.code = c) ∧
  Status.ofCode 7 = none

/-- PUT ends with FULL exactly when len() = C (42_single_element.md section 2, "PUT raises FULL exactly when len() = C"). -/
def Obligations.PutFullExactlyAtCapacity : Prop :=
  ∀ (P : Params) (s : Block P) (b : Byte), Inv s → s.initDone = true →
    ∃ t, exec (.put b) ⟨P, s⟩ = .next ⟨P, t⟩ ∧ (t.rspStatus = 3 ↔ s.len.toNat = s.mask.toNat + 1)

/-! ### Operand arithmetic, for every width -/

/-- The indexer truncates p AND MASK, and for C = MASK + 1 a power of two it is p mod C; with AW_MAX = 0 it is the single
index 0 (20_memory.md R33). -/
def Obligations.IndexerIsModuloCapacity : Prop :=
  ∀ (w a k : Nat) (mask p : BitVec w),
    indexer a mask p = (p &&& mask).setWidth a ∧
    indexer 0 mask p = 0 ∧
    (k ≤ a → mask.toNat + 1 = 2 ^ k → (indexer a mask p).toNat = p.toNat % (mask.toNat + 1))

/-- The index sequence runs on without a jump at the end of the ring and at the counter's wrap
(20_memory.md section 1, wrap-around). -/
def Obligations.IndexRunsOnAcrossWrap : Prop :=
  ∀ (w a k : Nat) (mask p : BitVec w), k ≤ a → mask.toNat + 1 = 2 ^ k →
    (indexer a mask (p + 1)).toNat = ((indexer a mask p).toNat + 1) % 2 ^ k

/-- cap_ok(C) holds exactly of C = 2^k with 0 <= k <= AW_MAX, and at any legal parameters every accepted capacity is at most
2^(CNT_W-1), so that a count of C bytes is distinct from 0 (00_scope.md R8, R9, R14; 40_initialize.md R54). -/
def Obligations.CapacityCheckIsPowerOfTwo : Prop :=
  (∀ (w a : Nat) (c : BitVec w), capOk a c = true ↔ ∃ k, k ≤ a ∧ c.toNat = 2 ^ k) ∧
  (∀ (P : Params) (c : Count P), capOk P.awMax c = true → c.toNat ≤ 2 ^ (P.cntW - 1))

/-- Available capacity is C - len(), and its modular evaluation never wraps (43_bulk_transfer.md section 3, available
capacity). -/
def Obligations.SpaceIsCapacityLessLength : Prop :=
  ∀ (P : Params) (s : Block P), Inv s → s.initDone = true → s.space.toNat + s.len.toNat = s.mask.toNat + 1

/-! ### The queue -/

/-- Refinement to an abstract FIFO: what each command that ends OK does to the abstract queue Q, and what it returns of it
(10_state.md section 6, files 40 to 43). -/
def Obligations.CommandsRefineAbstractQueue : Prop :=
  ∀ (P : Params) (s t : Block P) (i : Instr), Inv s → i.wf P.cntW = true → exec i ⟨P, s⟩ = .next ⟨P, t⟩ → t.rspStatus = 0 →
    match i with
    | .init _ _ => t.queue = []
    | .put b => t.queue = s.queue ++ [b]
    | .get => s.queue = t.rspByte :: t.queue
    | .peek k => t.queue = s.queue ∧ s.queue[k]? = some t.rspByte
    | .flush => t.queue = []
    | .len => t.queue = s.queue ∧ t.rspCount.toNat = s.queue.length
    | .bulkReadQ => t.queue = s.queue ∧ t.rspCount.toNat = s.queue.length
    | .bulkRead size => t.rspCount.toNat = min size s.queue.length ∧
        t.queue = s.queue.drop t.rspCount.toNat ∧ t.rdStream = s.rdStream ++ s.queue.take t.rspCount.toNat
    | .bulkWriteQ => t.queue = s.queue ∧ t.rspCount.toNat + s.queue.length = s.mask.toNat + 1
    | .bulkWrite size => t.rspCount.toNat = min size (s.mask.toNat + 1 - s.queue.length) ∧
        t.queue = s.queue ++ s.wrData.take t.rspCount.toNat ∧ t.wrData = s.wrData.drop t.rspCount.toNat

/-- How each command changes len(), and its bounds (41_length.md, length bounds). -/
def Obligations.LengthChanges : Prop :=
  ∀ (P : Params) (s t : Block P) (i : Instr), Inv s → exec i ⟨P, s⟩ = .next ⟨P, t⟩ →
    t.len.toNat ≤ t.mask.toNat + 1 ∧ (t.initDone = false → t.len = 0) ∧
    (t.rspStatus ≠ 0 → t.len = s.len) ∧
    (t.rspStatus = 0 →
      match i with
      | .init _ _ => t.len = 0
      | .put _ => t.len.toNat = s.len.toNat + 1
      | .get => t.len.toNat + 1 = s.len.toNat
      | .peek _ => t.len = s.len
      | .flush => t.len = 0
      | .len => t.len = s.len
      | .bulkReadQ => t.len = s.len
      | .bulkRead _ => t.len.toNat + t.rspCount.toNat = s.len.toNat
      | .bulkWriteQ => t.len = s.len
      | .bulkWrite _ => t.len.toNat = s.len.toNat + t.rspCount.toNat)

/-- Round trip: N PUTs on an empty FIFO, N at most C, and then N GETs all end OK and give the same bytes in the same order
(42_single_element.md section 2, round trip). -/
def Obligations.PutGetRoundTrip : Prop :=
  ∀ (P : Params) (s : Block P) (bs : List Byte), Inv s → s.initDone = true → s.len = 0 → bs.length ≤ s.mask.toNat + 1 →
    ∃ t u r, runOk (bs.map Instr.put) ⟨P, s⟩ = some (⟨P, t⟩, r) ∧
      runOk (List.replicate bs.length Instr.get) ⟨P, t⟩ = some (⟨P, u⟩, bs)

/-- PEEK(i) returns the byte that the (i+1)-th of the next i+1 GETs returns, and leaves len() alone
(42_single_element.md section 2, PEEK and GET agree). -/
def Obligations.PeekAgreesWithGets : Prop :=
  ∀ (P : Params) (s : Block P) (k : Count P), Inv s → s.initDone = true → k < s.len →
    ∃ t u bs, exec (.peek k.toNat) ⟨P, s⟩ = .next ⟨P, t⟩ ∧ t.rspStatus = 0 ∧ t.len = s.len ∧
      runOk (List.replicate (k.toNat + 1) Instr.get) ⟨P, s⟩ = some (⟨P, u⟩, bs) ∧ bs.getLast? = some t.rspByte

/-- A BULK_READ that moves n bytes leaves the registers and storage as n GETs do and delivers the bytes they return; a
BULK_WRITE that moves n bytes leaves them as n PUTs of those bytes do (43_bulk_transfer.md section 3, equivalence to
single-element commands). -/
def Obligations.BulkTransfersEqualSingles : Prop :=
  (∀ (P : Params) (s t : Block P) (size : Count P), Inv s → exec (.bulkRead size.toNat) ⟨P, s⟩ = .next ⟨P, t⟩ → t.rspStatus = 0 →
    ∃ u bs, runOk (List.replicate t.rspCount.toNat Instr.get) ⟨P, s⟩ = some (⟨P, u⟩, bs) ∧ SameArch t u ∧
      t.rdStream = s.rdStream ++ bs) ∧
  (∀ (P : Params) (s t : Block P) (size : Count P), Inv s → exec (.bulkWrite size.toNat) ⟨P, s⟩ = .next ⟨P, t⟩ → t.rspStatus = 0 →
    ∃ u bs, runOk ((s.wrData.take t.rspCount.toNat).map Instr.put) ⟨P, s⟩ = some (⟨P, u⟩, bs) ∧ SameArch t u)

/-- A zero request in transfer mode with something available ends OK with count 0 and changes nothing else
(43_bulk_transfer.md section 3, zero request). -/
def Obligations.ZeroRequestsMoveNothing : Prop :=
  (∀ (P : Params) (s : Block P), s.initDone = true → s.wrPos - s.rdPos ≠ 0 →
    exec (.bulkRead 0) ⟨P, s⟩ = .next ⟨P, { s with rspValid := true, rspStatus := 0, rspByte := 0, rspCount := 0 }⟩) ∧
  (∀ (P : Params) (s : Block P), s.initDone = true → s.mask - (s.wrPos - s.rdPos) + 1 ≠ 0 →
    exec (.bulkWrite 0) ⟨P, s⟩ = .next ⟨P, { s with rspValid := true, rspStatus := 0, rspByte := 0, rspCount := 0 }⟩)

/-- The counts of the two size queries add up to C, and neither query changes anything but the response
(43_bulk_transfer.md section 3, size-query commands are pure). -/
def Obligations.SizeQueriesAddToCapacity : Prop :=
  ∀ (P : Params) (s : Block P), Inv s → s.initDone = true →
    ∃ t u, exec .bulkReadQ ⟨P, s⟩ = .next ⟨P, t⟩ ∧ exec .bulkWriteQ ⟨P, s⟩ = .next ⟨P, u⟩ ∧
      t = { s with rspValid := true, rspStatus := t.rspStatus, rspByte := 0, rspCount := t.rspCount } ∧
      u = { s with rspValid := true, rspStatus := u.rspStatus, rspByte := 0, rspCount := u.rspCount } ∧
      t.rspCount.toNat + u.rspCount.toNat = s.mask.toNat + 1

/-- FLUSH twice: both end OK, both leave len() 0, and the second changes nothing at all
(42_single_element.md section 2, FLUSH is idempotent). -/
def Obligations.FlushIsIdempotent : Prop :=
  ∀ (P : Params) (s : Block P), Inv s → ∃ t, exec .flush ⟨P, s⟩ = .next ⟨P, t⟩ ∧ t.rspStatus = 0 ∧ t.len = 0 ∧ exec .flush ⟨P, t⟩ = .next ⟨P, t⟩

/-- Every byte a GET, PEEK or BULK_READ returns from an invariant state is one something has written: no claim about what
such a command returns rests on the free value of an unwritten cell (10_state.md section 6; log 2). -/
def Obligations.ReadsReturnWrittenBytes : Prop :=
  (∀ (P : Params) (s t : Block P), Inv s → exec .get ⟨P, s⟩ = .next ⟨P, t⟩ → t.rspStatus = 0 →
    Memory.read s.store (s.idx s.rdPos).toNat = some t.rspByte) ∧
  (∀ (P : Params) (s t : Block P) (k : Count P), Inv s → exec (.peek k.toNat) ⟨P, s⟩ = .next ⟨P, t⟩ → t.rspStatus = 0 →
    Memory.read s.store (s.idx (s.rdPos + k)).toNat = some t.rspByte) ∧
  (∀ (P : Params) (s t : Block P) (size : Count P), Inv s → exec (.bulkRead size.toNat) ⟨P, s⟩ = .next ⟨P, t⟩ → t.rspStatus = 0 →
    ∀ k, k < t.rspCount.toNat →
      Memory.read s.store (s.idx (s.rdPos + BitVec.ofNat P.cntW k)).toNat = t.rdStream[s.rdStream.length + k]?)

/-! ### Invariants and isolation -/

/-- The reset state meets the invariants, at the reference parameters and at every others (10_state.md section 6). -/
def Obligations.ResetMeetsInvariants : Prop :=
  (∀ P : Params, Inv (State.resetAt P).block) ∧ Inv State.reset.block

/-- Every step keeps the invariants (10_state.md section 6: I1 to I4, the legal phases, the canonical storage). -/
def Obligations.StepKeepsInvariants : Prop :=
  ∀ (P : Params) (s t : Block P), Inv s → step ⟨P, s⟩ = .next ⟨P, t⟩ → Inv t

/-- Isolation: two states that differ only in cells outside the live window show the same outputs and stay so at every
step, whatever those cells hold (10_state.md section 6, unobservable state). -/
def Obligations.StaleCellsAreUnobservable : Prop :=
  ∀ (P : Params) (s t : Block P), Inv s → SameView s t →
    (∀ rst, outputs rst s = outputs rst t) ∧
    (∀ s', step ⟨P, s⟩ = .next ⟨P, s'⟩ → ∃ t', step ⟨P, t⟩ = .next ⟨P, t'⟩ ∧ SameView s' t') ∧
    (∀ f, step ⟨P, s⟩ = .fault f → step ⟨P, t⟩ = .fault f)

/-! ### Reset and the cycle level -/

/-- Reset: from any state whatever, at an edge with rst = 1 and any other inputs, every register takes its reset value and
STORE is not written; the reset state of every parameters, State.reset among them, holds those values (10_state.md R28; 70_reset_and_hazards.md R98). -/
def Obligations.ResetRegisterValues : Prop :=
  (∀ (P : Params) (s : Block P) (p : PortIn P), p.rst = true →
    clockEdge p s =
      .next { s with
        initDone := false, mask := 0, rdPos := 0, wrPos := 0, phase := 0b00#2, remain := 0,
        rspValid := false, rspStatus := 0, rspByte := 0x00, rspCount := 0 }) ∧
  (∀ P : Params,
    (Block.reset P).initDone = false ∧ (Block.reset P).mask = 0 ∧ (Block.reset P).rdPos = 0 ∧ (Block.reset P).wrPos = 0 ∧
    (Block.reset P).phase = 0b00#2 ∧ (Block.reset P).remain = 0 ∧ (Block.reset P).rspValid = false ∧
    (Block.reset P).rspStatus = 0 ∧ (Block.reset P).rspByte = 0x00 ∧ (Block.reset P).rspCount = 0) ∧
  State.reset = ⟨Params.reference, Block.reset Params.reference⟩

/-- A reset during a transfer abandons it: the block is uninitialized at once, LEN reports 0 and PUT is refused
(70_reset_and_hazards.md R110; 95_test_vectors.md T2). -/
def Obligations.ResetAbandonsTransfer : Prop :=
  ∀ (P : Params) (s : Block P) (p : PortIn P) (b : Byte), p.rst = true → s.phase ≠ phaseIdle →
    ∃ t u v, clockEdge p s = .next t ∧ t.phase = phaseIdle ∧ t.store = s.store ∧
      accept .len t = .next u ∧ u.rspStatus = 0 ∧ u.rspCount = 0 ∧ accept (.put b) t = .next v ∧ v.rspStatus = 1

/-- The output equations; and with cmd_ready 0 through a transfer a presented command has no effect on the edge
(70_reset_and_hazards.md R106). -/
def Obligations.OutputEquations : Prop :=
  (∀ (rst : Bool) (P : Params) (s : Block P),
    ((outputs rst s).cmdReady = true ↔ rst = false ∧ s.phase = 0b00#2) ∧
    ((outputs rst s).wrReady = true ↔ rst = false ∧ s.phase = 0b01#2) ∧
    ((outputs rst s).rdValid = true ↔ rst = false ∧ s.phase = 0b10#2) ∧
    (outputs rst s).rdByte =
      (if (outputs rst s).rdValid = true then s.memRead ((s.rdPos &&& s.mask).setWidth P.awMax) else 0x00) ∧
    (outputs rst s).rspValid = s.rspValid ∧ (outputs rst s).rspStatus = s.rspStatus ∧
    (outputs rst s).rspByte = s.rspByte ∧ (outputs rst s).rspCount = s.rspCount) ∧
  (∀ (P : Params) (s : Block P) (p : PortIn P), s.phase ≠ 0b00#2 → clockEdge p s = clockEdge { p with cmdValid := false } s)

/-- Transfer start: at its acceptance edge a transfer-mode bulk command that is to move n > 0 bytes registers its response,
sets PHASE and REMAIN and changes no counter and no cell (70_reset_and_hazards.md R103). -/
def Obligations.AcceptanceStartsTransfer : Prop :=
  (∀ (P : Params) (s : Block P) (p : PortIn P) (size : Nat), p.rst = false → p.cmdValid = true → s.phase = phaseIdle →
    decodeFields p.cmdOp p.cmdArr p.cmdArg p.cmdByte = .bulkRead size → Inv s → s.initDone = true →
    s.len ≠ 0 → size ≠ 0 →
    ∃ n : Count P, ∃ r : BeatCount P, n.toNat = min size s.len.toNat ∧ r.toNat = n.toNat ∧
      clockEdge p s = .next { s with
        phase := 0b10#2, remain := r, rspValid := true, rspStatus := 0, rspByte := 0, rspCount := n }) ∧
  (∀ (P : Params) (s : Block P) (p : PortIn P) (size : Nat), p.rst = false → p.cmdValid = true → s.phase = phaseIdle →
    decodeFields p.cmdOp p.cmdArr p.cmdArg p.cmdByte = .bulkWrite size → Inv s → s.initDone = true →
    s.space ≠ 0 → size ≠ 0 →
    ∃ n : Count P, ∃ r : BeatCount P, n.toNat = min size s.space.toNat ∧ r.toNat = n.toNat ∧
      clockEdge p s = .next { s with
        phase := 0b01#2, remain := r, rspValid := true, rspStatus := 0, rspByte := 0, rspCount := n })

/-- A bulk command that moves no byte, failing or with n = 0, completes at its acceptance edge: the edge applies its rule and
PHASE stays IDLE (70_reset_and_hazards.md R103, R113). -/
def Obligations.EmptyTransferCompletesAtAcceptance : Prop :=
  ∀ (P : Params) (s t : Block P) (p : PortIn P) (i : Instr), p.rst = false → p.cmdValid = true → s.phase = phaseIdle →
    decodeFields p.cmdOp p.cmdArr p.cmdArg p.cmdByte = i → exec i ⟨P, s⟩ = .next ⟨P, t⟩ → t.rspCount = 0 ∨ t.rspStatus ≠ 0 →
    clockEdge p s = .next t ∧ t.phase = phaseIdle

/-- The write beat, and the wait for one (70_reset_and_hazards.md R104); PUT's FULL test could not fail at it. -/
def Obligations.WriteBeat : Prop :=
  (∀ (P : Params) (s : Block P) (p : PortIn P), p.rst = false → s.phase = phaseXferWr → p.wrValid = true →
    clockEdge p s = .next { s with
      store := Memory.write s.store ((s.wrPos &&& s.mask).setWidth P.awMax).toNat p.wrByte,
      wrPos := s.wrPos + 1, remain := s.remain - 1,
      phase := if s.remain = 1 then 0b00#2 else 0b01#2, rspValid := false }) ∧
  (∀ (P : Params) (s : Block P) (p : PortIn P), p.rst = false → s.phase = phaseXferWr → p.wrValid = false →
    clockEdge p s = .next { s with rspValid := false }) ∧
  (∀ (P : Params) (s : Block P), Inv s → s.phase = phaseXferWr → s.len ≤ s.mask)

/-- The read beat, and the wait for one (70_reset_and_hazards.md R105): the byte taken is the one presented on rd_byte. -/
def Obligations.ReadBeat : Prop :=
  (∀ (P : Params) (s : Block P) (p : PortIn P), p.rst = false → s.phase = phaseXferRd → p.rdReady = true →
    clockEdge p s = .next { s with
      rdStream := s.rdStream ++ [(outputs false s).rdByte],
      rdPos := s.rdPos + 1, remain := s.remain - 1,
      phase := if s.remain = 1 then 0b00#2 else 0b10#2, rspValid := false }) ∧
  (∀ (P : Params) (s : Block P) (p : PortIn P), p.rst = false → s.phase = phaseXferRd → p.rdReady = false →
    clockEdge p s = .next { s with rspValid := false }) ∧
  (∀ (P : Params) (s : Block P), s.phase = phaseXferRd → (outputs false s).rdValid = true ∧
    (outputs false s).rdByte = s.memRead ((s.rdPos &&& s.mask).setWidth P.awMax))

/-- Sampling: each input is read only where it matters; at every other time it is a don't-care
(70_reset_and_hazards.md R115). -/
def Obligations.InputsSampledOnlyWhereTheyMatter : Prop :=
  ∀ (P : Params) (s : Block P) (p q : PortIn P), p.rst = q.rst →
    (p.rst = false → s.phase = phaseIdle → p.cmdValid = q.cmdValid) →
    (p.rst = false → s.phase = phaseIdle → p.cmdValid = true →
      p.cmdOp = q.cmdOp ∧ p.cmdArr = q.cmdArr ∧ p.cmdArg = q.cmdArg ∧ p.cmdByte = q.cmdByte) →
    (p.rst = false → s.phase = phaseXferWr → p.wrValid = q.wrValid) →
    (p.rst = false → s.phase = phaseXferWr → p.wrValid = true → p.wrByte = q.wrByte) →
    (p.rst = false → s.phase = phaseXferRd → p.rdReady = q.rdReady) →
    clockEdge p s = clockEdge q s

/-- Response timing: with rst = 0, RSP_VALID is 1 after an edge exactly when the edge accepted a command, and an edge that
accepted none leaves the other response registers alone (10_state.md R25; 70_reset_and_hazards.md R102, R107). -/
def Obligations.ResponseLastsOneCycle : Prop :=
  ∀ (P : Params) (s t : Block P) (p : PortIn P), p.rst = false → clockEdge p s = .next t →
    (t.rspValid = true ↔ p.cmdValid = true ∧ s.phase = phaseIdle) ∧
    (t.rspValid = false → t.rspStatus = s.rspStatus ∧ t.rspByte = s.rspByte ∧ t.rspCount = s.rspCount)

/-- A clock edge never stops the block: it answers a next state from every state and for all inputs
(60_exceptions.md R91; 70_reset_and_hazards.md R102). -/
def Obligations.ClockEdgeAlwaysAnswers : Prop :=
  ∀ (P : Params) (s : Block P) (p : PortIn P), ∃ t, clockEdge p s = .next t

/-- The cycle level agrees with the transaction level, BULK_WRITE: the acceptance edge and then any cycles, waits among
them, up to the n-th write beat leave the block in exactly the state the command's rule gives for the bytes of the beats
(70_reset_and_hazards.md section 2, agreement of the two levels). The data operand is the host's (log 7), and that RSP_VALID
is 0 in the rule's state after the n > 0 beats is the model's reading (log 4). -/
def Obligations.BulkWriteCyclesAgree : Prop :=
  ∀ (P : Params) (s : Block P) (p q : PortIn P) (ps : List (PortIn P)) (size : Nat),
    Inv s → s.phase = phaseIdle → s.initDone = true →
    p.rst = false → p.cmdValid = true → decodeFields p.cmdOp p.cmdArr p.cmdArg p.cmdByte = .bulkWrite size →
    (∀ r ∈ ps ++ [q], r.rst = false) → q.wrValid = true →
    (writeBytes (ps ++ [q])).length = min size s.space.toNat →
    ∃ t, exec (.bulkWrite size) ⟨P, { s with wrData := writeBytes (ps ++ [q]) }⟩ = .next ⟨P, t⟩ ∧
      clockRun (p :: (ps ++ [q])) s = .next { t with wrData := s.wrData }

/-- The cycle level agrees with the transaction level, BULK_READ: the acceptance edge and then any cycles, waits among them,
up to the n-th read beat leave the block in exactly the state the command's rule gives, the bytes taken included
(70_reset_and_hazards.md section 2, agreement of the two levels). The record of the bytes the host has taken is the model's own
(rdStream, log 7), and that RSP_VALID is 0 in the rule's state after the n > 0 beats is the model's reading (log 4). -/
def Obligations.BulkReadCyclesAgree : Prop :=
  ∀ (P : Params) (s : Block P) (p q : PortIn P) (ps : List (PortIn P)) (size : Nat),
    Inv s → s.phase = phaseIdle → s.initDone = true →
    p.rst = false → p.cmdValid = true → decodeFields p.cmdOp p.cmdArr p.cmdArg p.cmdByte = .bulkRead size →
    (∀ r ∈ ps ++ [q], r.rst = false) → q.rdReady = true →
    readBeats (ps ++ [q]) = min size s.len.toNat →
    ∃ t, exec (.bulkRead size) ⟨P, s⟩ = .next ⟨P, t⟩ ∧ clockRun (p :: (ps ++ [q])) s = .next t

/-- A whole command presented while a transfer is in progress is held for exactly REMAIN steps, in which the host takes or
gives the bytes owed, and is then at a command boundary, still presented (model's choice, log 10). -/
def Obligations.HeldCommandReachesBoundary : Prop :=
  (∀ (P : Params) (s : Block P) (c : CmdWord P) (d : List Byte) (rest : List (HostAct P)), Inv s → s.phase = phaseXferRd →
    s.host = .command c d :: rest →
    ∃ t, core.run s.remain.toNat ⟨P, s⟩ = .next ⟨P, t⟩ ∧ t.phase = phaseIdle ∧ t.host = s.host ∧
      t.rdStream = s.rdStream ++ s.queue.take s.remain.toNat ∧ t.queue = s.queue.drop s.remain.toNat) ∧
  (∀ (P : Params) (s : Block P) (c : CmdWord P) (d : List Byte) (rest : List (HostAct P)), Inv s → s.phase = phaseXferWr →
    s.host = .command c d :: rest → s.remain.toNat ≤ s.wrData.length →
    ∃ t, core.run s.remain.toNat ⟨P, s⟩ = .next ⟨P, t⟩ ∧ t.phase = phaseIdle ∧ t.host = s.host ∧
      t.queue = s.queue ++ s.wrData.take s.remain.toNat ∧ t.wrData = s.wrData.drop s.remain.toNat)

/-- Instances are independent: a step of one leaves every other as it was (60_exceptions.md R96). -/
def Obligations.InstancesAreIndependent : Prop :=
  ∀ (blocks after : List State) (k j : Nat), j ≠ k → stepInstance k blocks = .next after →
    after[j]? = blocks[j]? ∧ after.length = blocks.length
end

