-- ==== Sys2Proof/Laws/State.lean ====
section
/-! SUPPORT. Laws/State: one lemma per field per named update of a block, and, for each update that leaves them alone, one lemma for each view of the registers and the storage (len, space, idx, memRead). All by rfl. -/

namespace Sys2Proof.Machine

variable {P : Params} (s : Block P)

/-! ### memWrite -/

@[simp] theorem Block.memWrite_initDone (i : Index P) (b : Byte) : (s.memWrite i b).initDone = s.initDone := rfl
@[simp] theorem Block.memWrite_mask (i : Index P) (b : Byte) : (s.memWrite i b).mask = s.mask := rfl
@[simp] theorem Block.memWrite_rdPos (i : Index P) (b : Byte) : (s.memWrite i b).rdPos = s.rdPos := rfl
@[simp] theorem Block.memWrite_wrPos (i : Index P) (b : Byte) : (s.memWrite i b).wrPos = s.wrPos := rfl
@[simp] theorem Block.memWrite_store (i : Index P) (b : Byte) : (s.memWrite i b).store = Memory.write s.store i.toNat b := rfl
@[simp] theorem Block.memWrite_rspValid (i : Index P) (b : Byte) : (s.memWrite i b).rspValid = s.rspValid := rfl
@[simp] theorem Block.memWrite_rspStatus (i : Index P) (b : Byte) : (s.memWrite i b).rspStatus = s.rspStatus := rfl
@[simp] theorem Block.memWrite_rspByte (i : Index P) (b : Byte) : (s.memWrite i b).rspByte = s.rspByte := rfl
@[simp] theorem Block.memWrite_rspCount (i : Index P) (b : Byte) : (s.memWrite i b).rspCount = s.rspCount := rfl
@[simp] theorem Block.memWrite_phase (i : Index P) (b : Byte) : (s.memWrite i b).phase = s.phase := rfl
@[simp] theorem Block.memWrite_remain (i : Index P) (b : Byte) : (s.memWrite i b).remain = s.remain := rfl
@[simp] theorem Block.memWrite_host (i : Index P) (b : Byte) : (s.memWrite i b).host = s.host := rfl
@[simp] theorem Block.memWrite_wrData (i : Index P) (b : Byte) : (s.memWrite i b).wrData = s.wrData := rfl
@[simp] theorem Block.memWrite_rdStream (i : Index P) (b : Byte) : (s.memWrite i b).rdStream = s.rdStream := rfl
@[simp] theorem Block.memWrite_len (i : Index P) (b : Byte) : (s.memWrite i b).len = s.len := rfl
@[simp] theorem Block.memWrite_space (i : Index P) (b : Byte) : (s.memWrite i b).space = s.space := rfl
@[simp] theorem Block.memWrite_idx (i : Index P) (b : Byte) (q : Count P) : (s.memWrite i b).idx q = s.idx q := rfl

/-! ### setRdPos -/

@[simp] theorem Block.setRdPos_initDone (p : Count P) : (s.setRdPos p).initDone = s.initDone := rfl
@[simp] theorem Block.setRdPos_mask (p : Count P) : (s.setRdPos p).mask = s.mask := rfl
@[simp] theorem Block.setRdPos_rdPos (p : Count P) : (s.setRdPos p).rdPos = p := rfl
@[simp] theorem Block.setRdPos_wrPos (p : Count P) : (s.setRdPos p).wrPos = s.wrPos := rfl
@[simp] theorem Block.setRdPos_store (p : Count P) : (s.setRdPos p).store = s.store := rfl
@[simp] theorem Block.setRdPos_rspValid (p : Count P) : (s.setRdPos p).rspValid = s.rspValid := rfl
@[simp] theorem Block.setRdPos_rspStatus (p : Count P) : (s.setRdPos p).rspStatus = s.rspStatus := rfl
@[simp] theorem Block.setRdPos_rspByte (p : Count P) : (s.setRdPos p).rspByte = s.rspByte := rfl
@[simp] theorem Block.setRdPos_rspCount (p : Count P) : (s.setRdPos p).rspCount = s.rspCount := rfl
@[simp] theorem Block.setRdPos_phase (p : Count P) : (s.setRdPos p).phase = s.phase := rfl
@[simp] theorem Block.setRdPos_remain (p : Count P) : (s.setRdPos p).remain = s.remain := rfl
@[simp] theorem Block.setRdPos_host (p : Count P) : (s.setRdPos p).host = s.host := rfl
@[simp] theorem Block.setRdPos_wrData (p : Count P) : (s.setRdPos p).wrData = s.wrData := rfl
@[simp] theorem Block.setRdPos_rdStream (p : Count P) : (s.setRdPos p).rdStream = s.rdStream := rfl
@[simp] theorem Block.setRdPos_idx (p : Count P) (q : Count P) : (s.setRdPos p).idx q = s.idx q := rfl
@[simp] theorem Block.setRdPos_memRead (p : Count P) (j : Index P) : (s.setRdPos p).memRead j = s.memRead j := rfl

/-! ### setWrPos -/

@[simp] theorem Block.setWrPos_initDone (p : Count P) : (s.setWrPos p).initDone = s.initDone := rfl
@[simp] theorem Block.setWrPos_mask (p : Count P) : (s.setWrPos p).mask = s.mask := rfl
@[simp] theorem Block.setWrPos_rdPos (p : Count P) : (s.setWrPos p).rdPos = s.rdPos := rfl
@[simp] theorem Block.setWrPos_wrPos (p : Count P) : (s.setWrPos p).wrPos = p := rfl
@[simp] theorem Block.setWrPos_store (p : Count P) : (s.setWrPos p).store = s.store := rfl
@[simp] theorem Block.setWrPos_rspValid (p : Count P) : (s.setWrPos p).rspValid = s.rspValid := rfl
@[simp] theorem Block.setWrPos_rspStatus (p : Count P) : (s.setWrPos p).rspStatus = s.rspStatus := rfl
@[simp] theorem Block.setWrPos_rspByte (p : Count P) : (s.setWrPos p).rspByte = s.rspByte := rfl
@[simp] theorem Block.setWrPos_rspCount (p : Count P) : (s.setWrPos p).rspCount = s.rspCount := rfl
@[simp] theorem Block.setWrPos_phase (p : Count P) : (s.setWrPos p).phase = s.phase := rfl
@[simp] theorem Block.setWrPos_remain (p : Count P) : (s.setWrPos p).remain = s.remain := rfl
@[simp] theorem Block.setWrPos_host (p : Count P) : (s.setWrPos p).host = s.host := rfl
@[simp] theorem Block.setWrPos_wrData (p : Count P) : (s.setWrPos p).wrData = s.wrData := rfl
@[simp] theorem Block.setWrPos_rdStream (p : Count P) : (s.setWrPos p).rdStream = s.rdStream := rfl
@[simp] theorem Block.setWrPos_idx (p : Count P) (q : Count P) : (s.setWrPos p).idx q = s.idx q := rfl
@[simp] theorem Block.setWrPos_memRead (p : Count P) (j : Index P) : (s.setWrPos p).memRead j = s.memRead j := rfl

/-! ### bindCapacity -/

@[simp] theorem Block.bindCapacity_initDone (cap : Count P) : (s.bindCapacity cap).initDone = true := rfl
@[simp] theorem Block.bindCapacity_mask (cap : Count P) : (s.bindCapacity cap).mask = cap - 1 := rfl
@[simp] theorem Block.bindCapacity_rdPos (cap : Count P) : (s.bindCapacity cap).rdPos = 0 := rfl
@[simp] theorem Block.bindCapacity_wrPos (cap : Count P) : (s.bindCapacity cap).wrPos = 0 := rfl
@[simp] theorem Block.bindCapacity_store (cap : Count P) : (s.bindCapacity cap).store = s.store := rfl
@[simp] theorem Block.bindCapacity_rspValid (cap : Count P) : (s.bindCapacity cap).rspValid = s.rspValid := rfl
@[simp] theorem Block.bindCapacity_rspStatus (cap : Count P) : (s.bindCapacity cap).rspStatus = s.rspStatus := rfl
@[simp] theorem Block.bindCapacity_rspByte (cap : Count P) : (s.bindCapacity cap).rspByte = s.rspByte := rfl
@[simp] theorem Block.bindCapacity_rspCount (cap : Count P) : (s.bindCapacity cap).rspCount = s.rspCount := rfl
@[simp] theorem Block.bindCapacity_phase (cap : Count P) : (s.bindCapacity cap).phase = s.phase := rfl
@[simp] theorem Block.bindCapacity_remain (cap : Count P) : (s.bindCapacity cap).remain = s.remain := rfl
@[simp] theorem Block.bindCapacity_host (cap : Count P) : (s.bindCapacity cap).host = s.host := rfl
@[simp] theorem Block.bindCapacity_wrData (cap : Count P) : (s.bindCapacity cap).wrData = s.wrData := rfl
@[simp] theorem Block.bindCapacity_rdStream (cap : Count P) : (s.bindCapacity cap).rdStream = s.rdStream := rfl
@[simp] theorem Block.bindCapacity_memRead (cap : Count P) (j : Index P) : (s.bindCapacity cap).memRead j = s.memRead j := rfl

/-! ### respond -/

@[simp] theorem Block.respond_initDone (st : Status) (b : Byte) (n : Count P) : (s.respond st b n).initDone = s.initDone := rfl
@[simp] theorem Block.respond_mask (st : Status) (b : Byte) (n : Count P) : (s.respond st b n).mask = s.mask := rfl
@[simp] theorem Block.respond_rdPos (st : Status) (b : Byte) (n : Count P) : (s.respond st b n).rdPos = s.rdPos := rfl
@[simp] theorem Block.respond_wrPos (st : Status) (b : Byte) (n : Count P) : (s.respond st b n).wrPos = s.wrPos := rfl
@[simp] theorem Block.respond_store (st : Status) (b : Byte) (n : Count P) : (s.respond st b n).store = s.store := rfl
@[simp] theorem Block.respond_rspValid (st : Status) (b : Byte) (n : Count P) : (s.respond st b n).rspValid = true := rfl
@[simp] theorem Block.respond_rspStatus (st : Status) (b : Byte) (n : Count P) : (s.respond st b n).rspStatus = st.code := rfl
@[simp] theorem Block.respond_rspByte (st : Status) (b : Byte) (n : Count P) : (s.respond st b n).rspByte = b := rfl
@[simp] theorem Block.respond_rspCount (st : Status) (b : Byte) (n : Count P) : (s.respond st b n).rspCount = n := rfl
@[simp] theorem Block.respond_phase (st : Status) (b : Byte) (n : Count P) : (s.respond st b n).phase = s.phase := rfl
@[simp] theorem Block.respond_remain (st : Status) (b : Byte) (n : Count P) : (s.respond st b n).remain = s.remain := rfl
@[simp] theorem Block.respond_host (st : Status) (b : Byte) (n : Count P) : (s.respond st b n).host = s.host := rfl
@[simp] theorem Block.respond_wrData (st : Status) (b : Byte) (n : Count P) : (s.respond st b n).wrData = s.wrData := rfl
@[simp] theorem Block.respond_rdStream (st : Status) (b : Byte) (n : Count P) : (s.respond st b n).rdStream = s.rdStream := rfl
@[simp] theorem Block.respond_len (st : Status) (b : Byte) (n : Count P) : (s.respond st b n).len = s.len := rfl
@[simp] theorem Block.respond_space (st : Status) (b : Byte) (n : Count P) : (s.respond st b n).space = s.space := rfl
@[simp] theorem Block.respond_idx (st : Status) (b : Byte) (n : Count P) (q : Count P) : (s.respond st b n).idx q = s.idx q := rfl
@[simp] theorem Block.respond_memRead (st : Status) (b : Byte) (n : Count P) (j : Index P) : (s.respond st b n).memRead j = s.memRead j := rfl

/-! ### endResponse -/

@[simp] theorem Block.endResponse_initDone : (s.endResponse).initDone = s.initDone := rfl
@[simp] theorem Block.endResponse_mask : (s.endResponse).mask = s.mask := rfl
@[simp] theorem Block.endResponse_rdPos : (s.endResponse).rdPos = s.rdPos := rfl
@[simp] theorem Block.endResponse_wrPos : (s.endResponse).wrPos = s.wrPos := rfl
@[simp] theorem Block.endResponse_store : (s.endResponse).store = s.store := rfl
@[simp] theorem Block.endResponse_rspValid : (s.endResponse).rspValid = false := rfl
@[simp] theorem Block.endResponse_rspStatus : (s.endResponse).rspStatus = s.rspStatus := rfl
@[simp] theorem Block.endResponse_rspByte : (s.endResponse).rspByte = s.rspByte := rfl
@[simp] theorem Block.endResponse_rspCount : (s.endResponse).rspCount = s.rspCount := rfl
@[simp] theorem Block.endResponse_phase : (s.endResponse).phase = s.phase := rfl
@[simp] theorem Block.endResponse_remain : (s.endResponse).remain = s.remain := rfl
@[simp] theorem Block.endResponse_host : (s.endResponse).host = s.host := rfl
@[simp] theorem Block.endResponse_wrData : (s.endResponse).wrData = s.wrData := rfl
@[simp] theorem Block.endResponse_rdStream : (s.endResponse).rdStream = s.rdStream := rfl
@[simp] theorem Block.endResponse_len : (s.endResponse).len = s.len := rfl
@[simp] theorem Block.endResponse_space : (s.endResponse).space = s.space := rfl
@[simp] theorem Block.endResponse_idx (q : Count P) : (s.endResponse).idx q = s.idx q := rfl
@[simp] theorem Block.endResponse_memRead (j : Index P) : (s.endResponse).memRead j = s.memRead j := rfl

/-! ### deliver -/

@[simp] theorem Block.deliver_initDone (bs : List Byte) : (s.deliver bs).initDone = s.initDone := rfl
@[simp] theorem Block.deliver_mask (bs : List Byte) : (s.deliver bs).mask = s.mask := rfl
@[simp] theorem Block.deliver_rdPos (bs : List Byte) : (s.deliver bs).rdPos = s.rdPos := rfl
@[simp] theorem Block.deliver_wrPos (bs : List Byte) : (s.deliver bs).wrPos = s.wrPos := rfl
@[simp] theorem Block.deliver_store (bs : List Byte) : (s.deliver bs).store = s.store := rfl
@[simp] theorem Block.deliver_rspValid (bs : List Byte) : (s.deliver bs).rspValid = s.rspValid := rfl
@[simp] theorem Block.deliver_rspStatus (bs : List Byte) : (s.deliver bs).rspStatus = s.rspStatus := rfl
@[simp] theorem Block.deliver_rspByte (bs : List Byte) : (s.deliver bs).rspByte = s.rspByte := rfl
@[simp] theorem Block.deliver_rspCount (bs : List Byte) : (s.deliver bs).rspCount = s.rspCount := rfl
@[simp] theorem Block.deliver_phase (bs : List Byte) : (s.deliver bs).phase = s.phase := rfl
@[simp] theorem Block.deliver_remain (bs : List Byte) : (s.deliver bs).remain = s.remain := rfl
@[simp] theorem Block.deliver_host (bs : List Byte) : (s.deliver bs).host = s.host := rfl
@[simp] theorem Block.deliver_wrData (bs : List Byte) : (s.deliver bs).wrData = s.wrData := rfl
@[simp] theorem Block.deliver_rdStream (bs : List Byte) : (s.deliver bs).rdStream = s.rdStream ++ bs := rfl
@[simp] theorem Block.deliver_len (bs : List Byte) : (s.deliver bs).len = s.len := rfl
@[simp] theorem Block.deliver_space (bs : List Byte) : (s.deliver bs).space = s.space := rfl
@[simp] theorem Block.deliver_idx (bs : List Byte) (q : Count P) : (s.deliver bs).idx q = s.idx q := rfl
@[simp] theorem Block.deliver_memRead (bs : List Byte) (j : Index P) : (s.deliver bs).memRead j = s.memRead j := rfl

/-! ### consume -/

@[simp] theorem Block.consume_initDone (k : Nat) : (s.consume k).initDone = s.initDone := rfl
@[simp] theorem Block.consume_mask (k : Nat) : (s.consume k).mask = s.mask := rfl
@[simp] theorem Block.consume_rdPos (k : Nat) : (s.consume k).rdPos = s.rdPos := rfl
@[simp] theorem Block.consume_wrPos (k : Nat) : (s.consume k).wrPos = s.wrPos := rfl
@[simp] theorem Block.consume_store (k : Nat) : (s.consume k).store = s.store := rfl
@[simp] theorem Block.consume_rspValid (k : Nat) : (s.consume k).rspValid = s.rspValid := rfl
@[simp] theorem Block.consume_rspStatus (k : Nat) : (s.consume k).rspStatus = s.rspStatus := rfl
@[simp] theorem Block.consume_rspByte (k : Nat) : (s.consume k).rspByte = s.rspByte := rfl
@[simp] theorem Block.consume_rspCount (k : Nat) : (s.consume k).rspCount = s.rspCount := rfl
@[simp] theorem Block.consume_phase (k : Nat) : (s.consume k).phase = s.phase := rfl
@[simp] theorem Block.consume_remain (k : Nat) : (s.consume k).remain = s.remain := rfl
@[simp] theorem Block.consume_host (k : Nat) : (s.consume k).host = s.host := rfl
@[simp] theorem Block.consume_wrData (k : Nat) : (s.consume k).wrData = s.wrData.drop k := rfl
@[simp] theorem Block.consume_rdStream (k : Nat) : (s.consume k).rdStream = s.rdStream := rfl
@[simp] theorem Block.consume_len (k : Nat) : (s.consume k).len = s.len := rfl
@[simp] theorem Block.consume_space (k : Nat) : (s.consume k).space = s.space := rfl
@[simp] theorem Block.consume_idx (k : Nat) (q : Count P) : (s.consume k).idx q = s.idx q := rfl
@[simp] theorem Block.consume_memRead (k : Nat) (j : Index P) : (s.consume k).memRead j = s.memRead j := rfl

/-! ### offer -/

@[simp] theorem Block.offer_initDone (d : List Byte) : (s.offer d).initDone = s.initDone := rfl
@[simp] theorem Block.offer_mask (d : List Byte) : (s.offer d).mask = s.mask := rfl
@[simp] theorem Block.offer_rdPos (d : List Byte) : (s.offer d).rdPos = s.rdPos := rfl
@[simp] theorem Block.offer_wrPos (d : List Byte) : (s.offer d).wrPos = s.wrPos := rfl
@[simp] theorem Block.offer_store (d : List Byte) : (s.offer d).store = s.store := rfl
@[simp] theorem Block.offer_rspValid (d : List Byte) : (s.offer d).rspValid = s.rspValid := rfl
@[simp] theorem Block.offer_rspStatus (d : List Byte) : (s.offer d).rspStatus = s.rspStatus := rfl
@[simp] theorem Block.offer_rspByte (d : List Byte) : (s.offer d).rspByte = s.rspByte := rfl
@[simp] theorem Block.offer_rspCount (d : List Byte) : (s.offer d).rspCount = s.rspCount := rfl
@[simp] theorem Block.offer_phase (d : List Byte) : (s.offer d).phase = s.phase := rfl
@[simp] theorem Block.offer_remain (d : List Byte) : (s.offer d).remain = s.remain := rfl
@[simp] theorem Block.offer_host (d : List Byte) : (s.offer d).host = s.host := rfl
@[simp] theorem Block.offer_wrData (d : List Byte) : (s.offer d).wrData = d := rfl
@[simp] theorem Block.offer_rdStream (d : List Byte) : (s.offer d).rdStream = s.rdStream := rfl
@[simp] theorem Block.offer_len (d : List Byte) : (s.offer d).len = s.len := rfl
@[simp] theorem Block.offer_space (d : List Byte) : (s.offer d).space = s.space := rfl
@[simp] theorem Block.offer_idx (d : List Byte) (q : Count P) : (s.offer d).idx q = s.idx q := rfl
@[simp] theorem Block.offer_memRead (d : List Byte) (j : Index P) : (s.offer d).memRead j = s.memRead j := rfl

/-! ### present -/

@[simp] theorem Block.present_initDone (acts : List (HostAct P)) : (s.present acts).initDone = s.initDone := rfl
@[simp] theorem Block.present_mask (acts : List (HostAct P)) : (s.present acts).mask = s.mask := rfl
@[simp] theorem Block.present_rdPos (acts : List (HostAct P)) : (s.present acts).rdPos = s.rdPos := rfl
@[simp] theorem Block.present_wrPos (acts : List (HostAct P)) : (s.present acts).wrPos = s.wrPos := rfl
@[simp] theorem Block.present_store (acts : List (HostAct P)) : (s.present acts).store = s.store := rfl
@[simp] theorem Block.present_rspValid (acts : List (HostAct P)) : (s.present acts).rspValid = s.rspValid := rfl
@[simp] theorem Block.present_rspStatus (acts : List (HostAct P)) : (s.present acts).rspStatus = s.rspStatus := rfl
@[simp] theorem Block.present_rspByte (acts : List (HostAct P)) : (s.present acts).rspByte = s.rspByte := rfl
@[simp] theorem Block.present_rspCount (acts : List (HostAct P)) : (s.present acts).rspCount = s.rspCount := rfl
@[simp] theorem Block.present_phase (acts : List (HostAct P)) : (s.present acts).phase = s.phase := rfl
@[simp] theorem Block.present_remain (acts : List (HostAct P)) : (s.present acts).remain = s.remain := rfl
@[simp] theorem Block.present_host (acts : List (HostAct P)) : (s.present acts).host = acts := rfl
@[simp] theorem Block.present_wrData (acts : List (HostAct P)) : (s.present acts).wrData = s.wrData := rfl
@[simp] theorem Block.present_rdStream (acts : List (HostAct P)) : (s.present acts).rdStream = s.rdStream := rfl
@[simp] theorem Block.present_len (acts : List (HostAct P)) : (s.present acts).len = s.len := rfl
@[simp] theorem Block.present_space (acts : List (HostAct P)) : (s.present acts).space = s.space := rfl
@[simp] theorem Block.present_idx (acts : List (HostAct P)) (q : Count P) : (s.present acts).idx q = s.idx q := rfl
@[simp] theorem Block.present_memRead (acts : List (HostAct P)) (j : Index P) : (s.present acts).memRead j = s.memRead j := rfl

/-! ### startTransfer -/

@[simp] theorem Block.startTransfer_initDone (ph : BitVec 2) (n : Count P) : (s.startTransfer ph n).initDone = s.initDone := rfl
@[simp] theorem Block.startTransfer_mask (ph : BitVec 2) (n : Count P) : (s.startTransfer ph n).mask = s.mask := rfl
@[simp] theorem Block.startTransfer_rdPos (ph : BitVec 2) (n : Count P) : (s.startTransfer ph n).rdPos = s.rdPos := rfl
@[simp] theorem Block.startTransfer_wrPos (ph : BitVec 2) (n : Count P) : (s.startTransfer ph n).wrPos = s.wrPos := rfl
@[simp] theorem Block.startTransfer_store (ph : BitVec 2) (n : Count P) : (s.startTransfer ph n).store = s.store := rfl
@[simp] theorem Block.startTransfer_rspValid (ph : BitVec 2) (n : Count P) : (s.startTransfer ph n).rspValid = s.rspValid := rfl
@[simp] theorem Block.startTransfer_rspStatus (ph : BitVec 2) (n : Count P) : (s.startTransfer ph n).rspStatus = s.rspStatus := rfl
@[simp] theorem Block.startTransfer_rspByte (ph : BitVec 2) (n : Count P) : (s.startTransfer ph n).rspByte = s.rspByte := rfl
@[simp] theorem Block.startTransfer_rspCount (ph : BitVec 2) (n : Count P) : (s.startTransfer ph n).rspCount = s.rspCount := rfl
@[simp] theorem Block.startTransfer_phase (ph : BitVec 2) (n : Count P) : (s.startTransfer ph n).phase = ph := rfl
@[simp] theorem Block.startTransfer_remain (ph : BitVec 2) (n : Count P) : (s.startTransfer ph n).remain = n.setWidth (P.awMax + 1) := rfl
@[simp] theorem Block.startTransfer_host (ph : BitVec 2) (n : Count P) : (s.startTransfer ph n).host = s.host := rfl
@[simp] theorem Block.startTransfer_wrData (ph : BitVec 2) (n : Count P) : (s.startTransfer ph n).wrData = s.wrData := rfl
@[simp] theorem Block.startTransfer_rdStream (ph : BitVec 2) (n : Count P) : (s.startTransfer ph n).rdStream = s.rdStream := rfl
@[simp] theorem Block.startTransfer_len (ph : BitVec 2) (n : Count P) : (s.startTransfer ph n).len = s.len := rfl
@[simp] theorem Block.startTransfer_space (ph : BitVec 2) (n : Count P) : (s.startTransfer ph n).space = s.space := rfl
@[simp] theorem Block.startTransfer_idx (ph : BitVec 2) (n : Count P) (q : Count P) : (s.startTransfer ph n).idx q = s.idx q := rfl
@[simp] theorem Block.startTransfer_memRead (ph : BitVec 2) (n : Count P) (j : Index P) : (s.startTransfer ph n).memRead j = s.memRead j := rfl

/-! ### countBeat -/

@[simp] theorem Block.countBeat_initDone : (s.countBeat).initDone = s.initDone := rfl
@[simp] theorem Block.countBeat_mask : (s.countBeat).mask = s.mask := rfl
@[simp] theorem Block.countBeat_rdPos : (s.countBeat).rdPos = s.rdPos := rfl
@[simp] theorem Block.countBeat_wrPos : (s.countBeat).wrPos = s.wrPos := rfl
@[simp] theorem Block.countBeat_store : (s.countBeat).store = s.store := rfl
@[simp] theorem Block.countBeat_rspValid : (s.countBeat).rspValid = s.rspValid := rfl
@[simp] theorem Block.countBeat_rspStatus : (s.countBeat).rspStatus = s.rspStatus := rfl
@[simp] theorem Block.countBeat_rspByte : (s.countBeat).rspByte = s.rspByte := rfl
@[simp] theorem Block.countBeat_rspCount : (s.countBeat).rspCount = s.rspCount := rfl
@[simp] theorem Block.countBeat_phase : (s.countBeat).phase = if s.remain = 1 then phaseIdle else s.phase := rfl
@[simp] theorem Block.countBeat_remain : (s.countBeat).remain = s.remain - 1 := rfl
@[simp] theorem Block.countBeat_host : (s.countBeat).host = s.host := rfl
@[simp] theorem Block.countBeat_wrData : (s.countBeat).wrData = s.wrData := rfl
@[simp] theorem Block.countBeat_rdStream : (s.countBeat).rdStream = s.rdStream := rfl
@[simp] theorem Block.countBeat_len : (s.countBeat).len = s.len := rfl
@[simp] theorem Block.countBeat_space : (s.countBeat).space = s.space := rfl
@[simp] theorem Block.countBeat_idx (q : Count P) : (s.countBeat).idx q = s.idx q := rfl
@[simp] theorem Block.countBeat_memRead (j : Index P) : (s.countBeat).memRead j = s.memRead j := rfl

/-! ### resetRegisters -/

@[simp] theorem Block.resetRegisters_initDone : (s.resetRegisters).initDone = false := rfl
@[simp] theorem Block.resetRegisters_mask : (s.resetRegisters).mask = 0 := rfl
@[simp] theorem Block.resetRegisters_rdPos : (s.resetRegisters).rdPos = 0 := rfl
@[simp] theorem Block.resetRegisters_wrPos : (s.resetRegisters).wrPos = 0 := rfl
@[simp] theorem Block.resetRegisters_store : (s.resetRegisters).store = s.store := rfl
@[simp] theorem Block.resetRegisters_rspValid : (s.resetRegisters).rspValid = false := rfl
@[simp] theorem Block.resetRegisters_rspStatus : (s.resetRegisters).rspStatus = 0 := rfl
@[simp] theorem Block.resetRegisters_rspByte : (s.resetRegisters).rspByte = 0 := rfl
@[simp] theorem Block.resetRegisters_rspCount : (s.resetRegisters).rspCount = 0 := rfl
@[simp] theorem Block.resetRegisters_phase : (s.resetRegisters).phase = phaseIdle := rfl
@[simp] theorem Block.resetRegisters_remain : (s.resetRegisters).remain = 0 := rfl
@[simp] theorem Block.resetRegisters_host : (s.resetRegisters).host = s.host := rfl
@[simp] theorem Block.resetRegisters_wrData : (s.resetRegisters).wrData = s.wrData := rfl
@[simp] theorem Block.resetRegisters_rdStream : (s.resetRegisters).rdStream = s.rdStream := rfl
@[simp] theorem Block.resetRegisters_memRead (j : Index P) : (s.resetRegisters).memRead j = s.memRead j := rfl

/-! ### respondTransfer -/

@[simp] theorem Block.respondTransfer_initDone (n : Count P) : (s.respondTransfer n).initDone = s.initDone := rfl
@[simp] theorem Block.respondTransfer_mask (n : Count P) : (s.respondTransfer n).mask = s.mask := rfl
@[simp] theorem Block.respondTransfer_rdPos (n : Count P) : (s.respondTransfer n).rdPos = s.rdPos := rfl
@[simp] theorem Block.respondTransfer_wrPos (n : Count P) : (s.respondTransfer n).wrPos = s.wrPos := rfl
@[simp] theorem Block.respondTransfer_store (n : Count P) : (s.respondTransfer n).store = s.store := rfl
@[simp] theorem Block.respondTransfer_rspValid (n : Count P) : (s.respondTransfer n).rspValid = decide (n = 0) := rfl
@[simp] theorem Block.respondTransfer_rspStatus (n : Count P) : (s.respondTransfer n).rspStatus = 0 := rfl
@[simp] theorem Block.respondTransfer_rspByte (n : Count P) : (s.respondTransfer n).rspByte = 0 := rfl
@[simp] theorem Block.respondTransfer_rspCount (n : Count P) : (s.respondTransfer n).rspCount = n := rfl
@[simp] theorem Block.respondTransfer_phase (n : Count P) : (s.respondTransfer n).phase = s.phase := rfl
@[simp] theorem Block.respondTransfer_remain (n : Count P) : (s.respondTransfer n).remain = s.remain := rfl
@[simp] theorem Block.respondTransfer_host (n : Count P) : (s.respondTransfer n).host = s.host := rfl
@[simp] theorem Block.respondTransfer_wrData (n : Count P) : (s.respondTransfer n).wrData = s.wrData := rfl
@[simp] theorem Block.respondTransfer_rdStream (n : Count P) : (s.respondTransfer n).rdStream = s.rdStream := rfl
@[simp] theorem Block.respondTransfer_len (n : Count P) : (s.respondTransfer n).len = s.len := rfl
@[simp] theorem Block.respondTransfer_space (n : Count P) : (s.respondTransfer n).space = s.space := rfl
@[simp] theorem Block.respondTransfer_idx (n : Count P) (q : Count P) : (s.respondTransfer n).idx q = s.idx q := rfl
@[simp] theorem Block.respondTransfer_memRead (n : Count P) (j : Index P) : (s.respondTransfer n).memRead j = s.memRead j := rfl

/-! ### putByte -/

@[simp] theorem Block.putByte_initDone (b : Byte) : (s.putByte b).initDone = s.initDone := rfl
@[simp] theorem Block.putByte_mask (b : Byte) : (s.putByte b).mask = s.mask := rfl
@[simp] theorem Block.putByte_rdPos (b : Byte) : (s.putByte b).rdPos = s.rdPos := rfl
@[simp] theorem Block.putByte_wrPos (b : Byte) : (s.putByte b).wrPos = s.wrPos + 1 := rfl
@[simp] theorem Block.putByte_store (b : Byte) : (s.putByte b).store = Memory.write s.store (s.idx s.wrPos).toNat b := rfl
@[simp] theorem Block.putByte_rspValid (b : Byte) : (s.putByte b).rspValid = s.rspValid := rfl
@[simp] theorem Block.putByte_rspStatus (b : Byte) : (s.putByte b).rspStatus = s.rspStatus := rfl
@[simp] theorem Block.putByte_rspByte (b : Byte) : (s.putByte b).rspByte = s.rspByte := rfl
@[simp] theorem Block.putByte_rspCount (b : Byte) : (s.putByte b).rspCount = s.rspCount := rfl
@[simp] theorem Block.putByte_phase (b : Byte) : (s.putByte b).phase = s.phase := rfl
@[simp] theorem Block.putByte_remain (b : Byte) : (s.putByte b).remain = s.remain := rfl
@[simp] theorem Block.putByte_host (b : Byte) : (s.putByte b).host = s.host := rfl
@[simp] theorem Block.putByte_wrData (b : Byte) : (s.putByte b).wrData = s.wrData := rfl
@[simp] theorem Block.putByte_rdStream (b : Byte) : (s.putByte b).rdStream = s.rdStream := rfl
@[simp] theorem Block.putByte_idx (b : Byte) (q : Count P) : (s.putByte b).idx q = s.idx q := rfl

end Sys2Proof.Machine
end

