-- ==== Sys2Proof/Laws/Memory.lean ====
section
/-! SUPPORT. Laws/Memory: reading after writing, and the canonical form of the storage, which every write keeps. -/

namespace Sys2Proof.Machine

@[simp] theorem Memory.read_nil (a : Nat) : Memory.read [] a = none := rfl

theorem Memory.read_cons (x : Nat) (c : Byte) (m : Memory) (a : Nat) :
    Memory.read ((x, c) :: m) a = if x = a then some c else Memory.read m a := rfl

/-- A read after a write to the same address gives the byte written. -/
@[simp] theorem Memory.read_write_self (m : Memory) (a : Nat) (b : Byte) :
    Memory.read (Memory.write m a b) a = some b := by
  induction m with
  | nil => simp [Memory.write, Memory.read_cons]
  | cons h m ih =>
    obtain ⟨x, c⟩ := h
    unfold Memory.write
    split
    · simp [Memory.read_cons]
    · split
      · simp [Memory.read_cons]
      · rename_i h1 h2
        rw [Memory.read_cons, if_neg (fun e => h2 e.symm), ih]

/-- A write leaves every other address alone. -/
theorem Memory.read_write_of_ne (m : Memory) {a a' : Nat} (b : Byte) (h : a' ≠ a) :
    Memory.read (Memory.write m a b) a' = Memory.read m a' := by
  induction m with
  | nil => simp [Memory.write, Memory.read_cons, Ne.symm h]
  | cons e m ih =>
    obtain ⟨x, c⟩ := e
    unfold Memory.write
    split
    · rw [Memory.read_cons, if_neg (Ne.symm h)]
    · split
      · rename_i _ h2
        subst h2
        simp [Memory.read_cons, Ne.symm h]
      · simp [Memory.read_cons, ih]

theorem Memory.read_write (m : Memory) (a a' : Nat) (b : Byte) :
    Memory.read (Memory.write m a b) a' = if a' = a then some b else Memory.read m a' := by
  by_cases h : a' = a
  · subst h; simp
  · rw [if_neg h, Memory.read_write_of_ne m b h]

theorem Memory.wfFrom_cons (cells lo x : Nat) (c : Byte) (m : Memory) :
    Memory.wfFrom cells lo ((x, c) :: m) = true ↔ lo ≤ x ∧ x < cells ∧ Memory.wfFrom cells (x + 1) m = true := by
  simp [Memory.wfFrom, and_assoc]

theorem Memory.wfFrom_write {cells lo : Nat} {m : Memory} {a : Nat} (b : Byte) (hm : Memory.wfFrom cells lo m = true)
    (hlo : lo ≤ a) (ha : a < cells) : Memory.wfFrom cells lo (Memory.write m a b) = true := by
  induction m generalizing lo with
  | nil => exact (Memory.wfFrom_cons cells lo a b []).2 ⟨hlo, ha, rfl⟩
  | cons e m ih =>
    obtain ⟨x, c⟩ := e
    obtain ⟨h1, h2, h3⟩ := (Memory.wfFrom_cons cells lo x c m).1 hm
    unfold Memory.write
    split
    · exact (Memory.wfFrom_cons ..).2 ⟨hlo, ha, (Memory.wfFrom_cons ..).2 ⟨by omega, h2, h3⟩⟩
    · split
      · rename_i _ e
        subst e
        exact (Memory.wfFrom_cons ..).2 ⟨h1, h2, h3⟩
      · exact (Memory.wfFrom_cons ..).2 ⟨h1, h2, ih h3 (by omega)⟩

/-- A write to a cell the block has keeps the canonical form. -/
theorem Memory.wf_write {cells : Nat} {m : Memory} {a : Nat} (b : Byte) (hm : Memory.wf cells m = true) (ha : a < cells) :
    Memory.wf cells (Memory.write m a b) = true :=
  Memory.wfFrom_write b hm (Nat.zero_le a) ha

/-- The empty storage, as every reset state has it, is in canonical form. -/
theorem Memory.wf_reset (P : Params) : Memory.wf P.capMax (Block.reset P).store = true := rfl

theorem Block.memWrite_wf {P : Params} {s : Block P} (i : Index P) (b : Byte) (h : Memory.wf P.capMax s.store = true) :
    Memory.wf P.capMax (s.memWrite i b).store = true :=
  Memory.wf_write b h i.isLt

/-- MemRead after MemWrite (00_scope.md R15). -/
theorem Block.memRead_memWrite {P : Params} (s : Block P) (i j : Index P) (b : Byte) :
    (s.memWrite i b).memRead j = if j = i then b else s.memRead j := by
  by_cases h : j = i
  · subst h; simp [Block.memRead]
  · have hn : j.toNat ≠ i.toNat := fun e => h (BitVec.eq_of_toNat_eq e)
    rw [if_neg h]
    simp [Block.memRead, Memory.read_write_of_ne _ _ hn]

/-- Reading depends on nothing but the storage. -/
theorem Block.memRead_congr {P : Params} {s t : Block P} (h : s.store = t.store) (j : Index P) : s.memRead j = t.memRead j := by
  simp [Block.memRead, h]

end Sys2Proof.Machine
end

