-- ==== Sys2Proof/Laws/Ops.lean ====
section
/-! SUPPORT. Laws/Ops: what each shared operation can do, said once: runs of reads and writes, the beats, a failure, one clock edge and one step. -/

namespace Sys2Proof.Machine

variable {P : Params}

/-! ### Operand arithmetic -/

theorem minCount_toNat {w : Nat} (x y : BitVec w) : (minCount x y).toNat = min x.toNat y.toNat := by
  unfold minCount
  split
  · rename_i h; rw [BitVec.le_def] at h; omega
  · rename_i h; rw [BitVec.le_def] at h; omega

theorem lengthOf_self {w : Nat} (p : BitVec w) : lengthOf p p = 0 := by
  simp [lengthOf]

/-! ### The phases are distinct (10_state.md R26) -/

@[simp] theorem phaseIdle_ne_xferWr : phaseIdle ≠ phaseXferWr := by decide
@[simp] theorem phaseIdle_ne_xferRd : phaseIdle ≠ phaseXferRd := by decide
@[simp] theorem phaseXferWr_ne_idle : phaseXferWr ≠ phaseIdle := by decide
@[simp] theorem phaseXferWr_ne_xferRd : phaseXferWr ≠ phaseXferRd := by decide
@[simp] theorem phaseXferRd_ne_idle : phaseXferRd ≠ phaseIdle := by decide
@[simp] theorem phaseXferRd_ne_xferWr : phaseXferRd ≠ phaseXferWr := by decide
@[simp] theorem phaseIdle_ne_unnamed : phaseIdle ≠ 0b11#2 := by decide
@[simp] theorem phaseXferWr_ne_unnamed : phaseXferWr ≠ 0b11#2 := by decide
@[simp] theorem phaseXferRd_ne_unnamed : phaseXferRd ≠ 0b11#2 := by decide

/-! ### A failure -/

/-- `raise S` answers the state with its response and nothing else (60_exceptions.md R88). -/
theorem fail_eq (st : Status) (s : Block P) : fail st s = .next (s.respond st 0 0) := rfl

theorem Status.code_ne_reserved (st : Status) : st.code ≠ 7 := by
  cases st <;> decide

theorem Status.code_eq_zero_iff (st : Status) : st.code = 0 ↔ st = .ok := by
  cases st <;> decide

theorem Status.ofCode_code (st : Status) : Status.ofCode st.code = some st := by
  cases st <;> decide

/-! ### Runs of reads and writes -/

theorem Block.readRun_length (s : Block P) (p : Count P) (n : Nat) : (s.readRun p n).length = n := by
  simp [Block.readRun]

@[simp] theorem Block.readRun_zero (s : Block P) (p : Count P) : s.readRun p 0 = [] := rfl

theorem Block.readRun_succ (s : Block P) (p : Count P) (n : Nat) :
    s.readRun p (n + 1) = s.memRead (s.idx p) :: s.readRun (p + 1) n := by
  simp only [Block.readRun, List.range_succ_eq_map, List.map_cons, List.map_map]
  congr 1
  · simp
  · apply List.map_congr_left
    intro k _
    simp only [Function.comp_apply]
    congr 2
    rw [BitVec.add_assoc]
    congr 1
    apply BitVec.eq_of_toNat_eq
    simp [Nat.add_comm]

theorem Block.readRun_getElem (s : Block P) (p : Count P) (n k : Nat) (h : k < (s.readRun p n).length) :
    (s.readRun p n)[k] = s.memRead (s.idx (p + BitVec.ofNat P.cntW k)) := by
  simp [Block.readRun]

/-- A run of reads depends on nothing but MASK and the storage. -/
theorem Block.readRun_congr {s t : Block P} (hm : s.mask = t.mask) (hs : s.store = t.store) (p : Count P) (n : Nat) :
    s.readRun p n = t.readRun p n := by
  simp [Block.readRun, Block.memRead, Block.idx, hm, hs]

@[simp] theorem Block.writeRun_nil (s : Block P) (p : Count P) : s.writeRun p [] = s := rfl

theorem Block.writeRun_cons (s : Block P) (p : Count P) (b : Byte) (bs : List Byte) :
    s.writeRun p (b :: bs) = (s.memWrite (s.idx p) b).writeRun (p + 1) bs := rfl

/-- A run of writes changes the storage and nothing else. -/
theorem Block.writeRun_eq (s : Block P) (p : Count P) (bs : List Byte) :
    s.writeRun p bs = { s with store := (s.writeRun p bs).store } := by
  induction bs generalizing s p with
  | nil => rfl
  | cons b bs ih =>
    rw [Block.writeRun_cons, ih]
    rfl

theorem Block.writeRun_wf {s : Block P} (p : Count P) (bs : List Byte) (h : Memory.wf P.capMax s.store = true) :
    Memory.wf P.capMax (s.writeRun p bs).store = true := by
  induction bs generalizing s p with
  | nil => exact h
  | cons b bs ih => exact ih (p + 1) (Block.memWrite_wf _ b h)

/-! ### The acceptance of a command -/

/-- Which commands start a transfer, and with what (70_reset_and_hazards.md R102, R103). -/
theorem transferOf_cases {i : Instr} {s : Block P} {ph : BitVec 2} {n : Count P} (h : transferOf i s = some (ph, n)) :
    (∃ size, i = .bulkRead size ∧ ph = phaseXferRd ∧ n = s.readCount (BitVec.ofNat P.cntW size) ∧ s.initDone = true ∧ s.len ≠ 0 ∧ n ≠ 0) ∨
    (∃ size, i = .bulkWrite size ∧ ph = phaseXferWr ∧ n = s.writeCount (BitVec.ofNat P.cntW size) ∧ s.initDone = true ∧ s.space ≠ 0 ∧ n ≠ 0) := by
  cases i with
  | bulkRead size =>
    simp only [transferOf] at h
    split at h
    · rename_i hc
      obtain ⟨h1, h2⟩ := Prod.mk.inj (Option.some.inj h)
      exact .inl ⟨size, rfl, h1.symm, h2.symm, hc.1, hc.2.1, h2 ▸ hc.2.2⟩
    · cases h
  | bulkWrite size =>
    simp only [transferOf] at h
    split at h
    · rename_i hc
      obtain ⟨h1, h2⟩ := Prod.mk.inj (Option.some.inj h)
      exact .inr ⟨size, rfl, h1.symm, h2.symm, hc.1, hc.2.1, h2 ▸ hc.2.2⟩
    · cases h
  | _ => cases h

/-- A command is accepted by starting a transfer or by its rule (R102). -/
theorem accept_cases (i : Instr) (s : Block P) :
    (∃ ph n, transferOf i s = some (ph, n) ∧ accept i s = .next ((s.startTransfer ph n).respond .ok 0 n)) ∨
    (transferOf i s = none ∧ accept i s = s.rule i) := by
  cases h : transferOf i s with
  | none => exact .inr ⟨rfl, by simp [accept, h]⟩
  | some t => exact .inl ⟨t.1, t.2, rfl, by simp [accept, h]⟩

/-! ### One clock edge and one step -/

/-- An edge at which no command is accepted: a write beat, a read beat, or neither (R102). -/
theorem Block.wait_cases (s : Block P) (p : PortIn P) :
    (s.phase = phaseXferWr ∧ p.wrValid = true ∧ s.wait p = s.endResponse.writeBeat p.wrByte) ∨
    (s.phase = phaseXferRd ∧ p.rdReady = true ∧ s.wait p = s.endResponse.readBeat) ∨
    (¬ (s.phase = phaseXferWr ∧ p.wrValid = true) ∧ ¬ (s.phase = phaseXferRd ∧ p.rdReady = true) ∧
      s.wait p = s.endResponse) := by
  by_cases h1 : s.phase = phaseXferWr ∧ p.wrValid = true
  · exact .inl ⟨h1.1, h1.2, by simp [Block.wait, h1]⟩
  · by_cases h2 : s.phase = phaseXferRd ∧ p.rdReady = true
    · exact .inr (.inl ⟨h2.1, h2.2, by rw [Block.wait, if_neg h1, if_pos h2]⟩)
    · exact .inr (.inr ⟨h1, h2, by rw [Block.wait, if_neg h1, if_neg h2]⟩)

/-- One clock edge resets, accepts a command, or waits (R98, R100, R102). -/
theorem clockEdge_cases (p : PortIn P) (s : Block P) :
    (p.rst = true ∧ clockEdge p s = .next s.resetRegisters) ∨
    (p.rst = false ∧ p.cmdValid = true ∧ s.phase = phaseIdle ∧
      clockEdge p s = accept (decodeFields p.cmdOp p.cmdArr p.cmdArg p.cmdByte) s) ∨
    (p.rst = false ∧ (p.cmdValid = false ∨ s.phase ≠ phaseIdle) ∧ clockEdge p s = .next (s.wait p)) := by
  cases hr : p.rst with
  | true => exact .inl ⟨rfl, by simp [clockEdge, hr]⟩
  | false =>
    cases hv : p.cmdValid with
    | false => exact .inr (.inr ⟨rfl, .inl rfl, by simp [clockEdge, hr, hv]⟩)
    | true =>
      by_cases hp : s.phase = phaseIdle
      · exact .inr (.inl ⟨rfl, rfl, hp, by simp [clockEdge, hr, hv, hp, cmdReady]⟩)
      · exact .inr (.inr ⟨rfl, .inr hp, by simp [clockEdge, hr, hv, hp, cmdReady]⟩)

/-! ### The machine acts as its block does (00_scope.md R11) -/

@[simp] theorem liftBlock_next (b : Block P) : liftBlock P (.next b) = .next { params := P, block := b } := rfl

@[simp] theorem liftBlock_fault (f : Fault) : liftBlock P (.fault f) = .fault f := rfl

@[simp] theorem State.onBlock_mk (b : Block P) (f : Block P → Host.Outcome (Block P) Fault Refusal) :
    State.onBlock { params := P, block := b } f = liftBlock P (f b) := rfl

theorem liftBlock_eq_next_iff {o : Host.Outcome (Block P) Fault Refusal} {t : Block P} :
    liftBlock P o = .next { params := P, block := t } ↔ o = .next t := by
  cases o <;> simp [liftBlock]

theorem liftBlock_eq_fault_iff {o : Host.Outcome (Block P) Fault Refusal} {f : Fault} :
    liftBlock P o = .fault f ↔ o = .fault f := by
  cases o <;> simp [liftBlock]

/-- What the machine answers has the machine's parameters. -/
theorem liftBlock_params {o : Host.Outcome (Block P) Fault Refusal} {t : State} (h : liftBlock P o = .next t) :
    t.params = P := by
  cases o <;> cases h
  rfl

/-- exec is the command's rule on the machine's block. -/
theorem exec_eq (i : Instr) (s : State) : exec i s = s.onBlock (Block.rule i) := by
  cases i <;> rfl

theorem exec_mk (i : Instr) (b : Block P) : exec i { params := P, block := b } = liftBlock P (b.rule i) :=
  exec_eq i _

theorem exec_eq_next_iff {i : Instr} {s t : Block P} :
    exec i { params := P, block := s } = .next { params := P, block := t } ↔ s.rule i = .next t := by
  rw [exec_mk, liftBlock_eq_next_iff]

/-- One step is a clock edge, a whole command at a command boundary, or an edge a held command waits through. -/
theorem step_cases (s : Block P) :
    (s.host = [] ∧ step { params := P, block := s } = liftBlock P (clockEdge PortIn.idle s)) ∨
    (∃ p rest, s.host = .cycle p :: rest ∧
      step { params := P, block := s } = liftBlock P (clockEdge p (s.present rest))) ∨
    (∃ c d rest, s.host = .command c d :: rest ∧ s.phase = phaseIdle ∧
      step { params := P, block := s } = liftBlock P (((s.present rest).offer d).rule (decode c))) ∨
    (∃ c d rest, s.host = .command c d :: rest ∧ s.phase ≠ phaseIdle ∧
      step { params := P, block := s } = .next { params := P, block := s.holdCommand c }) := by
  cases hh : s.host with
  | nil => exact .inl ⟨rfl, by simp [step, runNext, hh]⟩
  | cons a rest =>
    cases a with
    | cycle p => exact .inr (.inl ⟨p, rest, rfl, by simp [step, runNext, hh]⟩)
    | command c d =>
      by_cases hp : s.phase = phaseIdle
      · exact .inr (.inr (.inl ⟨c, d, rest, rfl, hp, by simp [step, runNext, hh, hp, cmdReady, exec_mk]⟩))
      · exact .inr (.inr (.inr ⟨c, d, rest, rfl, hp, by simp [step, runNext, hh, hp, cmdReady]⟩))

@[simp] theorem clockRun_nil (s : Block P) : clockRun [] s = .next s := rfl

theorem clockRun_cons_of_next {p : PortIn P} {s t : Block P} (ps : List (PortIn P)) (h : clockEdge p s = .next t) :
    clockRun (p :: ps) s = clockRun ps t := by
  simp [clockRun, h]

@[simp] theorem runOk_nil (s : State) : runOk [] s = some (s, []) := rfl

theorem runOk_cons_of_next {i : Instr} {s t u : State} {is : List Instr} {bs : List Byte} (h : exec i s = .next t)
    (hok : t.block.rspStatus = 0) (hr : runOk is t = some (u, bs)) :
    runOk (i :: is) s = some (u, t.block.rspByte :: bs) := by
  simp [runOk, h, hok, hr]

end Sys2Proof.Machine
end

