-- ==== Sys2Proof/Laws/Exec.lean ====
section
/-! SUPPORT. Laws/Exec: what each command's rule can do, one inversion lemma per rule: its branches, with the condition of each. -/

namespace Sys2Proof.Machine

variable {P : Params}

theorem Block.initRule_cases (arr : Bool) (cap : Count P) (s : Block P) :
    (arr = false ∧ Block.initRule arr cap s = .next (s.respond .nullStorage 0 0)) ∨
    (arr = true ∧ capOk P.awMax cap = false ∧ Block.initRule arr cap s = .next (s.respond .invalidCapacity 0 0)) ∨
    (arr = true ∧ capOk P.awMax cap = true ∧ Block.initRule arr cap s = .next ((s.bindCapacity cap).respond .ok 0 0)) := by
  cases arr with
  | false => exact .inl ⟨rfl, by simp [Block.initRule, fail]⟩
  | true =>
    cases hc : capOk P.awMax cap with
    | false => exact .inr (.inl ⟨rfl, rfl, by simp [Block.initRule, fail, hc]⟩)
    | true => exact .inr (.inr ⟨rfl, rfl, by simp [Block.initRule, hc]⟩)

theorem Block.putRule_cases (b : Byte) (s : Block P) :
    (s.initDone = false ∧ Block.putRule b s = .next (s.respond .notInitialized 0 0)) ∨
    (s.initDone = true ∧ ¬ s.len ≤ s.mask ∧ Block.putRule b s = .next (s.respond .full 0 0)) ∨
    (s.initDone = true ∧ s.len ≤ s.mask ∧ Block.putRule b s = .next ((s.putByte b).respond .ok 0 0)) := by
  cases hi : s.initDone with
  | false => exact .inl ⟨rfl, by simp [Block.putRule, fail, hi]⟩
  | true =>
    by_cases h : s.len ≤ s.mask
    · exact .inr (.inr ⟨rfl, h, by simp [Block.putRule, hi, h]⟩)
    · exact .inr (.inl ⟨rfl, h, by simp only [Block.putRule, hi, h, fail]; simp⟩)

theorem Block.getRule_cases (s : Block P) :
    (s.initDone = false ∧ Block.getRule s = .next (s.respond .notInitialized 0 0)) ∨
    (s.initDone = true ∧ s.len = 0 ∧ Block.getRule s = .next (s.respond .empty 0 0)) ∨
    (s.initDone = true ∧ s.len ≠ 0 ∧
      Block.getRule s = .next ((s.setRdPos (s.rdPos + 1)).respond .ok (s.memRead (s.idx s.rdPos)) 0)) := by
  cases hi : s.initDone with
  | false => exact .inl ⟨rfl, by simp [Block.getRule, fail, hi]⟩
  | true =>
    by_cases h : s.len = 0
    · exact .inr (.inl ⟨rfl, h, by simp only [Block.getRule, hi, h, fail]; simp⟩)
    · exact .inr (.inr ⟨rfl, h, by simp only [Block.getRule, hi, h]; simp⟩)

theorem Block.peekRule_cases (k : Count P) (s : Block P) :
    (s.initDone = false ∧ Block.peekRule k s = .next (s.respond .notInitialized 0 0)) ∨
    (s.initDone = true ∧ ¬ k < s.len ∧ Block.peekRule k s = .next (s.respond .outOfRange 0 0)) ∨
    (s.initDone = true ∧ k < s.len ∧
      Block.peekRule k s = .next (s.respond .ok (s.memRead (s.idx (s.rdPos + k))) 0)) := by
  cases hi : s.initDone with
  | false => exact .inl ⟨rfl, by simp [Block.peekRule, fail, hi]⟩
  | true =>
    by_cases h : k < s.len
    · exact .inr (.inr ⟨rfl, h, by simp only [Block.peekRule, hi, h]; simp⟩)
    · exact .inr (.inl ⟨rfl, h, by simp only [Block.peekRule, hi, h, fail]; simp⟩)

theorem Block.flushRule_cases (s : Block P) :
    (s.initDone = false ∧ Block.flushRule s = .next (s.respond .ok 0 0)) ∨
    (s.initDone = true ∧ Block.flushRule s = .next ((s.setRdPos s.wrPos).respond .ok 0 0)) := by
  cases hi : s.initDone with
  | false => exact .inl ⟨rfl, by simp [Block.flushRule, hi]⟩
  | true => exact .inr ⟨rfl, by simp [Block.flushRule, hi]⟩

theorem Block.bulkReadQRule_cases (s : Block P) :
    (s.initDone = false ∧ Block.bulkReadQRule s = .next (s.respond .notInitialized 0 0)) ∨
    (s.initDone = true ∧ s.len = 0 ∧ Block.bulkReadQRule s = .next (s.respond .empty 0 0)) ∨
    (s.initDone = true ∧ s.len ≠ 0 ∧ Block.bulkReadQRule s = .next (s.respond .ok 0 s.len)) := by
  cases hi : s.initDone with
  | false => exact .inl ⟨rfl, by simp [Block.bulkReadQRule, fail, hi]⟩
  | true =>
    by_cases h : s.len = 0
    · exact .inr (.inl ⟨rfl, h, by simp only [Block.bulkReadQRule, hi, h, fail]; simp⟩)
    · exact .inr (.inr ⟨rfl, h, by simp only [Block.bulkReadQRule, hi, h]; simp⟩)

theorem Block.bulkReadRule_cases (size : Count P) (s : Block P) :
    (s.initDone = false ∧ Block.bulkReadRule size s = .next (s.respond .notInitialized 0 0)) ∨
    (s.initDone = true ∧ s.len = 0 ∧ Block.bulkReadRule size s = .next (s.respond .empty 0 0)) ∨
    (s.initDone = true ∧ s.len ≠ 0 ∧ Block.bulkReadRule size s =
      .next (((s.deliver (s.readRun s.rdPos (s.readCount size).toNat)).setRdPos
        (s.rdPos + s.readCount size)).respondTransfer (s.readCount size))) := by
  cases hi : s.initDone with
  | false => exact .inl ⟨rfl, by simp [Block.bulkReadRule, fail, hi]⟩
  | true =>
    by_cases h : s.len = 0
    · exact .inr (.inl ⟨rfl, h, by simp only [Block.bulkReadRule, hi, h, fail]; simp⟩)
    · exact .inr (.inr ⟨rfl, h, by simp only [Block.bulkReadRule, hi, h]; simp⟩)

theorem Block.bulkWriteQRule_cases (s : Block P) :
    (s.initDone = false ∧ Block.bulkWriteQRule s = .next (s.respond .notInitialized 0 0)) ∨
    (s.initDone = true ∧ s.space = 0 ∧ Block.bulkWriteQRule s = .next (s.respond .full 0 0)) ∨
    (s.initDone = true ∧ s.space ≠ 0 ∧ Block.bulkWriteQRule s = .next (s.respond .ok 0 s.space)) := by
  cases hi : s.initDone with
  | false => exact .inl ⟨rfl, by simp [Block.bulkWriteQRule, fail, hi]⟩
  | true =>
    by_cases h : s.space = 0
    · exact .inr (.inl ⟨rfl, h, by simp only [Block.bulkWriteQRule, hi, h, fail]; simp⟩)
    · exact .inr (.inr ⟨rfl, h, by simp only [Block.bulkWriteQRule, hi, h]; simp⟩)

theorem Block.bulkWriteRule_cases (size : Count P) (s : Block P) :
    (s.initDone = false ∧ Block.bulkWriteRule size s = .next (s.respond .notInitialized 0 0)) ∨
    (s.initDone = true ∧ s.space = 0 ∧ Block.bulkWriteRule size s = .next (s.respond .full 0 0)) ∨
    (s.initDone = true ∧ s.space ≠ 0 ∧ s.wrData.length < (s.writeCount size).toNat ∧
      Block.bulkWriteRule size s = .fault .shortData) ∨
    (s.initDone = true ∧ s.space ≠ 0 ∧ (s.writeCount size).toNat ≤ s.wrData.length ∧ Block.bulkWriteRule size s =
      .next ((((s.writeRun s.wrPos (s.wrData.take (s.writeCount size).toNat)).consume (s.writeCount size).toNat).setWrPos
        (s.wrPos + s.writeCount size)).respondTransfer (s.writeCount size))) := by
  cases hi : s.initDone with
  | false => exact .inl ⟨rfl, by simp [Block.bulkWriteRule, fail, hi]⟩
  | true =>
    by_cases h : s.space = 0
    · exact .inr (.inl ⟨rfl, h, by simp only [Block.bulkWriteRule, hi, h, fail]; simp⟩)
    · by_cases hd : s.wrData.length < (s.writeCount size).toNat
      · exact .inr (.inr (.inl ⟨rfl, h, hd, by simp only [Block.bulkWriteRule, hi, h, hd]; simp⟩))
      · exact .inr (.inr (.inr ⟨rfl, h, by omega, by simp only [Block.bulkWriteRule, hi, h, hd]; simp⟩))

end Sys2Proof.Machine
end

