-- ==== Sys2Proof/Laws/Params.lean ====
section
/-! SUPPORT. Laws/Params: what the constraint on the parameters gives (00_scope.md R8, R11): CAP_MAX is at least 1 and below 2^CNT_W, and a beat count holds CAP_MAX. -/

namespace Sys2Proof

theorem Params.cntW_pos (P : Params) : 0 < P.cntW :=
  Nat.lt_of_le_of_lt (Nat.zero_le _) P.fits

theorem Params.capMax_pos (P : Params) : 0 < P.capMax :=
  Nat.two_pow_pos _

/-- A capacity of CAP_MAX is distinct from 0 modulo 2^CNT_W (R8). -/
theorem Params.capMax_lt (P : Params) : P.capMax < 2 ^ P.cntW :=
  Nat.pow_lt_pow_right (by decide) P.fits

theorem Params.capMax_lt_beats (P : Params) : P.capMax < 2 ^ (P.awMax + 1) :=
  Nat.pow_lt_pow_right (by decide) (Nat.lt_succ_self _)

/-- The reference values of R7, R8 and R11. -/
theorem Params.reference_values :
    Params.reference.cntW = 32 ∧ Params.reference.awMax = 8 ∧ Params.reference.capMax = 256 := by decide

end Sys2Proof
end

