-- ==== Sys2Proof/Laws/PerInstr.lean ====
section
/-! SUPPORT. Laws/PerInstr: the family OpcodeRow, one lemma per command: the canonical word of the command has, in its bits 3 to 0, the OP and ARR values of 30_encoding.md R49, for every value of the fields. -/

namespace Sys2Proof.Laws.OpcodeRow

/-- For every CNT_W = w, bits 3 to 0 of the command's canonical word are ARR and OP. -/
def Statement (i : Instr) : Prop :=
  ∀ w : Nat, (encode w i).extractLsb' 0 4 = BitVec.ofBool i.arr ++ i.op

theorem of_any (i : Instr) : Statement i := by
  intro w
  unfold encode packWord
  apply BitVec.eq_of_getLsbD_eq
  intro j hj
  simp only [BitVec.getLsbD_extractLsb', BitVec.getLsbD_append, Nat.zero_add, hj, decide_true, Bool.true_and]
  have : j < 12 := by omega
  rw [if_pos this, if_pos trivial]

theorem init (arr : Bool) (cap : Nat) : Statement (.init arr cap) := of_any _
theorem put (byte : Byte) : Statement (.put byte) := of_any _
theorem get : Statement .get := of_any _
theorem peek (offset : Nat) : Statement (.peek offset) := of_any _
theorem flush : Statement .flush := of_any _
theorem len : Statement .len := of_any _
theorem bulkReadQ : Statement .bulkReadQ := of_any _
theorem bulkRead (size : Nat) : Statement (.bulkRead size) := of_any _
theorem bulkWriteQ : Statement .bulkWriteQ := of_any _
theorem bulkWrite (size : Nat) : Statement (.bulkWrite size) := of_any _

end Sys2Proof.Laws.OpcodeRow
end

