-- ==== Sys2Proof/Tests/Slice0.lean ====
section
/-! SUPPORT. Tests/Slice0: small tests, each expected value from the spec (95_test_vectors.md and the encoding of 30_encoding.md), and for every obligation with hypotheses a witness that meets them. -/

namespace Sys2Proof.Tests

open Sys2Proof.Machine

/-! ### States the tests use -/

/-- The reference parameters, which the vectors of 95_test_vectors.md use. -/
abbrev Ref : Params := Params.reference

/-- The smallest legal parameters: CNT_W = 1, AW_MAX = 0, one cell. -/
abbrev Tiny : Params := { cntW := 1, awMax := 0, fits := by decide }

/-- An initialized block at a command boundary: capacity, the two counters, and the cells that hold something. -/
def readyAt (P : Params) (cap rd wr : Count P) (cells : Memory) : Block P :=
  { Block.reset P with initDone := true, mask := cap - 1, rdPos := rd, wrPos := wr, store := cells }

/-- Such a block at the reference parameters. -/
def ready (cap rd wr : Count Ref) (cells : Memory) : Block Ref := readyAt Ref cap rd wr cells

/-- What follows a next outcome meets p. -/
def nextIs {σ : Type} (o : Host.Outcome σ Fault Refusal) (p : σ → Bool) : Bool :=
  match o with
  | .next t => p t
  | .fault _ => false
  | .refused _ => false

/-- The outcome is a fault. -/
def isFault {σ : Type} (o : Host.Outcome σ Fault Refusal) : Bool :=
  match o with
  | .next _ => false
  | .fault _ => true
  | .refused _ => false

/-- C=8, RD=1, WR=9, full (95_test_vectors.md VP4, VF2). -/
def full8 : Block Ref :=
  ready 8 1 9 [(0, 0x09), (1, 0x02), (2, 0x03), (3, 0x04), (4, 0x05), (5, 0x06), (6, 0x07), (7, 0x08)]

/-- C=8, RD=1, WR=8, one byte short of full (VP3). -/
def almost8 : Block Ref :=
  ready 8 1 8 [(1, 0x02), (2, 0x03), (3, 0x04), (4, 0x05), (5, 0x06), (6, 0x07), (7, 0x08)]

/-- C=8, RD=1, WR=3, Q=[0x02, 0x03] (VW5). -/
def two8 : Block Ref := ready 8 1 3 [(1, 0x02), (2, 0x03)]

/-- C=8, RD=1, WR=4, Q=[0x02, 0x03, 0x04] (VRQ3). -/
def three8 : Block Ref := ready 8 1 4 [(1, 0x02), (2, 0x03), (3, 0x04)]

/-- C=8, RD=3, WR=3, empty (VG2). -/
def empty8 : Block Ref := ready 8 3 3 []

/-- C=4, RD=2, WR=5, Q=[0xa1, 0xb2, 0xc3] (VK4). -/
def three4 : Block Ref := ready 4 2 5 [(0, 0xc3), (2, 0xa1), (3, 0xb2)]

/-- C=4, RD=0xffffffff, WR=1, Q=[0x01, 0x02]: the counter wraps inside the queue (VG4). -/
def wrap4 : Block Ref := ready 4 0xffffffff 1 [(0, 0x02), (3, 0x01)]

/-- C=1, RD=5, WR=6, Q=[0x33] (VP6). -/
def full1 : Block Ref := ready 1 5 6 [(0, 0x33)]

/-- C=4, empty at 0 (VW9). -/
def empty4 : Block Ref := ready 4 0 0 []

/-- C=256 = CAP_MAX, empty (program P6, step 1). -/
def empty256 : Block Ref := ready 256 0 0 []

/-- The one cell of the smallest block, with a byte in it: C=1, RD=1, WR=0, the counter wrapped. -/
def fullTiny : Block Tiny := readyAt Tiny 1 1 0 [(0, 0x33)]

/-- The smallest block, initialized and empty. -/
def emptyTiny : Block Tiny := readyAt Tiny 1 1 1 []

/-- A write transfer at its last beat: cycle 6 of the timeline of 95_test_vectors.md section 4. -/
def writing1 : Block Ref :=
  { ready 4 0 2 [(0, 0x11), (1, 0x22)] with phase := phaseXferWr, remain := 1, rspCount := 3 }

/-- A write transfer with three beats owed, all the free space: cycle 3 of the timeline but with one byte buffered. -/
def writing3 : Block Ref :=
  { ready 4 3 4 [(3, 0x77)] with phase := phaseXferWr, remain := 3, rspValid := true, rspCount := 3 }

/-- A read transfer with two beats owed: cycle 9 of the timeline. -/
def reading2 : Block Ref :=
  { ready 4 0 3 [(0, 0x11), (1, 0x22), (2, 0x33)] with phase := phaseXferRd, remain := 2, rspValid := true, rspCount := 2 }

/-- A read transfer at its last beat, all that is buffered. -/
def reading1 : Block Ref :=
  { ready 4 2 3 [(0, 0x11), (1, 0x22), (2, 0x33)] with phase := phaseXferRd, remain := 1, rspCount := 3 }

/-- A cycle in which the host presents command fields. -/
def command (op : OpCode) (arr : Bool) (arg : Count Ref) (byte : Byte) : PortIn Ref :=
  { (PortIn.idle : PortIn Ref) with cmdValid := true, cmdOp := op, cmdArr := arr, cmdArg := arg, cmdByte := byte }

/-- A cycle in which the host offers a byte. -/
def offering (b : Byte) : PortIn Ref := { (PortIn.idle : PortIn Ref) with wrValid := true, wrByte := b }

/-- A cycle in which the host takes a byte. -/
def taking : PortIn Ref := { (PortIn.idle : PortIn Ref) with rdReady := true }

/-! ### Well-formedness refuses each ill-formed field (R45) -/

theorem test_wf_all_ports_full : RawCommand.wf 32 ⟨7, 1, 0xffffffff, 0xff⟩ = true := by decide
theorem test_wf_op_too_wide : RawCommand.wf 32 ⟨8, 0, 0, 0⟩ = false := by decide
theorem test_wf_arr_too_wide : RawCommand.wf 32 ⟨0, 2, 0, 0⟩ = false := by decide
theorem test_wf_arg_too_wide : RawCommand.wf 32 ⟨0, 0, 0x100000000, 0⟩ = false := by decide
theorem test_wf_byte_too_wide : RawCommand.wf 32 ⟨1, 0, 0, 256⟩ = false := by decide
theorem test_wf_operand_too_wide : Instr.wf 32 (.bulkRead 0x100000000) = false ∧ Instr.wf 1 (.init true 2) = false := by decide
theorem test_wf_line_operand_too_wide : AsmLine.wf 32 (.put 256) = false := by decide
theorem test_wf_line_data_too_wide : AsmLine.wf 32 (.bulkWrite 1 [256]) = false := by decide

/-! ### Words written out field by field (ARG, BYTE, ARR, OP: R46, R49) -/

theorem test_decode_init : decode (w := 32) (0x00000100#32 ++ (0x00#8 ++ (1#1 ++ 0b000#3))) = .init true 0x100 := by decide
theorem test_decode_init_null : decode (w := 32) (0x00000008#32 ++ (0x00#8 ++ (0#1 ++ 0b000#3))) = .init false 8 := by decide
theorem test_decode_put : decode (w := 32) (0x00000000#32 ++ (0xa5#8 ++ (0#1 ++ 0b001#3))) = .put 0xa5 := by decide
theorem test_decode_get : decode (w := 32) (0x00000000#32 ++ (0x00#8 ++ (0#1 ++ 0b010#3))) = .get := by decide
theorem test_decode_peek : decode (w := 32) (0x80000001#32 ++ (0x00#8 ++ (0#1 ++ 0b011#3))) = .peek 0x80000001 := by decide
theorem test_decode_flush : decode (w := 32) (0x00000000#32 ++ (0x00#8 ++ (0#1 ++ 0b100#3))) = .flush := by decide
theorem test_decode_len : decode (w := 32) (0x00000000#32 ++ (0x00#8 ++ (0#1 ++ 0b101#3))) = .len := by decide
theorem test_decode_bulk_read_q : decode (w := 32) (0x00000000#32 ++ (0x00#8 ++ (0#1 ++ 0b110#3))) = .bulkReadQ := by decide
theorem test_decode_bulk_read : decode (w := 32) (0x40000002#32 ++ (0x00#8 ++ (1#1 ++ 0b110#3))) = .bulkRead 0x40000002 := by decide
theorem test_decode_bulk_write_q : decode (w := 32) (0x00000000#32 ++ (0x00#8 ++ (0#1 ++ 0b111#3))) = .bulkWriteQ := by decide
theorem test_decode_bulk_write : decode (w := 32) (0x20000004#32 ++ (0x00#8 ++ (1#1 ++ 0b111#3))) = .bulkWrite 0x20000004 := by decide
/-- V-INIT VI1; V-PUT VP3; V-PEEK VK6; W1 steps 6, 10, 13; V-FLUSH; V-LEN; VRQ1; VWQ1. -/
theorem test_encode_words :
    [encode 32 (.init true 8), encode 32 (.put 0xff), encode 32 .get, encode 32 (.peek 0xffffffff), encode 32 .flush, encode 32 .len,
      encode 32 .bulkReadQ, encode 32 (.bulkRead 100), encode 32 .bulkWriteQ, encode 32 (.bulkWrite 6)] =
    [0x00000008008, 0x00000000ff1, 0x00000000002, 0xffffffff003, 0x00000000004, 0x00000000005,
      0x00000000006, 0x0000006400e, 0x00000000007, 0x0000000600f] := by decide
/-- Bit 44 and above are no part of a command word (log 14). -/
theorem test_decode_too_wide : decodeTableWord 48 0x100000000005 = none := by decide
/-- R52: numbers in both bases, a comment, a data list. -/
theorem test_assemble_line :
    parseTokens (lexLine [] "bulk_write 3, [0x44, 5, 0x66] ; c".toList) = some (.bulkWrite 3 [0x44, 5, 0x66]) := by decide
theorem test_assemble_init_null : parseTokens (lexLine [] "init.null 8".toList) = some (.initNull 8) := by decide
theorem test_assemble_refuses_missing_operand : parseTokens (lexLine [] "put".toList) = none := by decide

/-! ### One step of each command -/

/-- VI3. -/
theorem test_init_largest : nextIs (exec (.init true 256) State.reset)
    (fun t => decide (t.block.initDone = true ∧ t.block.mask = 255 ∧ t.block.rdPos = 0 ∧ t.block.wrPos = 0 ∧ t.block.rspStatus = 0)) = true := by decide
/-- As VI4 and VI12, from an initialized block, and VI10: 512 is above CAP_MAX, and the storage flag is tested before the capacity. -/
theorem test_init_failures :
    nextIs (exec (.init true 512) ⟨Ref, two8⟩) (fun t => decide (t.block.rspStatus = 6 ∧ t.block.mask = 7 ∧ t.block.wrPos = 3)) = true ∧
    nextIs (exec (.init false 0) State.reset) (fun t => decide (t.block.rspStatus = 2 ∧ t.block.initDone = false)) = true := by decide
/-- VP3: index idx(8) = 0. -/
theorem test_put_wraps_index : nextIs (exec (.put 0xff) ⟨Ref, almost8⟩)
    (fun t => decide (t.block.wrPos = 9 ∧ t.block.rspStatus = 0 ∧ Memory.read t.block.store 0 = some 0xff ∧ t.block.len = 8)) = true := by decide
/-- VP4. -/
theorem test_put_full : nextIs (exec (.put 0x10) ⟨Ref, full8⟩)
    (fun t => decide (t.block.rspStatus = 3 ∧ t.block.wrPos = 9 ∧ t.block.store = full8.store)) = true := by decide
/-- VG4: RD_POS wraps from 0xffffffff to 0. -/
theorem test_get_wraps_counter : nextIs (exec .get ⟨Ref, wrap4⟩)
    (fun t => decide (t.block.rdPos = 0 ∧ t.block.rspByte = 0x01 ∧ t.block.queue = [0x02])) = true := by decide
/-- VG2. -/
theorem test_get_empty : nextIs (exec .get ⟨Ref, empty8⟩) (fun t => decide (t.block.rspStatus = 4 ∧ t.block.rdPos = 3)) = true := by decide
/-- VK7. -/
theorem test_peek_across_wrap : nextIs (exec (.peek 1) ⟨Ref, wrap4⟩)
    (fun t => decide (t.block.rspByte = 0x02 ∧ t.block.rspStatus = 0 ∧ t.block.rdPos = 0xffffffff)) = true := by decide
/-- VK5: the index equal to len(). -/
theorem test_peek_at_length : nextIs (exec (.peek 3) ⟨Ref, three4⟩)
    (fun t => decide (t.block.rspStatus = 5 ∧ t.block.rspByte = 0)) = true := by decide
/-- VF2. -/
theorem test_flush_full : nextIs (exec .flush ⟨Ref, full8⟩)
    (fun t => decide (t.block.rdPos = 9 ∧ t.block.wrPos = 9 ∧ t.block.rspStatus = 0)) = true := by decide
/-- VF1. -/
theorem test_flush_uninitialized : nextIs (exec .flush State.reset)
    (fun t => decide (t.block.initDone = false ∧ t.block.rspStatus = 0)) = true := by decide
/-- VL3. -/
theorem test_len_across_wrap : nextIs (exec .len ⟨Ref, ready 4 0xfffffffe 2 []⟩)
    (fun t => decide (t.block.rspCount = 4 ∧ t.block.rspStatus = 0)) = true := by decide
/-- VRQ3. -/
theorem test_bulk_read_q : nextIs (exec .bulkReadQ ⟨Ref, three8⟩)
    (fun t => decide (t.block.rspCount = 3 ∧ t.block.rspStatus = 0 ∧ t.block.rdPos = 1)) = true := by decide
/-- VR7: clamped to len(). -/
theorem test_bulk_read_clamps : nextIs (exec (.bulkRead 0xffffffff) ⟨Ref, three8⟩)
    (fun t => decide (t.block.rspCount = 3 ∧ t.block.rdStream = [0x02, 0x03, 0x04] ∧ t.block.rdPos = 4)) = true := by decide
/-- VR3: EMPTY is tested before the size. -/
theorem test_bulk_read_zero_on_empty : nextIs (exec (.bulkRead 0) ⟨Ref, empty8⟩)
    (fun t => decide (t.block.rspStatus = 4 ∧ t.block.rspCount = 0)) = true := by decide
/-- VWQ3 and VWQ4. -/
theorem test_bulk_write_q :
    nextIs (exec .bulkWriteQ ⟨Ref, two8⟩) (fun t => decide (t.block.rspStatus = 0 ∧ t.block.rspCount = 6)) = true ∧
    nextIs (exec .bulkWriteQ ⟨Ref, full8⟩) (fun t => decide (t.block.rspStatus = 3 ∧ t.block.rspCount = 0)) = true := by decide
/-- VW6: six of ten bytes are taken, at indices 3, 4, 5, 6, 7 and 0. -/
theorem test_bulk_write_wraps : nextIs (exec (.bulkWrite 10)
      ⟨Ref, { two8 with wrData := [0x10, 0x11, 0x12, 0x13, 0x14, 0x15, 0x16, 0x17, 0x18, 0x19] }⟩)
    (fun t => decide (t.block.rspCount = 6 ∧ t.block.wrPos = 9 ∧ t.block.wrData = [0x16, 0x17, 0x18, 0x19] ∧
      t.block.store = [(0, 0x15), (1, 0x02), (2, 0x03), (3, 0x10), (4, 0x11), (5, 0x12), (6, 0x13), (7, 0x14)])) = true := by decide
/-- VW9: a data operand shorter than n has no step. -/
theorem test_bulk_write_short_data : isFault (exec (.bulkWrite 3) ⟨Ref, { empty4 with wrData := [0x01] }⟩) = true := by decide

/-! ### Other parameters than the reference ones (R7, R8, R11) -/

/-- CNT_W = 1, AW_MAX = 0: PUT stores the byte in the one cell, and WR_POS wraps from 1 to 0. -/
theorem test_put_smallest_parameters : nextIs (exec (.put 0x33) ⟨Tiny, emptyTiny⟩)
    (fun t => decide (t.block.rspStatus = 0 ∧ t.block.store = [(0, 0x33)] ∧ t.block.wrPos = 0 ∧ t.block.len = 1)) = true := by
  decide
/-- There C = 1 is the largest capacity, and a full block has no space. -/
theorem test_full_smallest_parameters :
    nextIs (exec .bulkWriteQ ⟨Tiny, fullTiny⟩) (fun t => decide (t.block.rspStatus = 3 ∧ t.block.rspCount = 0)) = true ∧
    nextIs (exec .get ⟨Tiny, fullTiny⟩) (fun t => decide (t.block.rspByte = 0x33 ∧ t.block.rdPos = 0)) = true := by decide
/-- CNT_W = 16: the word is 28 bits, {ARG, BYTE, ARR, OP}. -/
theorem test_decode_narrow : decode (w := 16) (0x8001#16 ++ (0x00#8 ++ (1#1 ++ 0b111#3))) = .bulkWrite 0x8001 := by decide

/-! ### Single clock edges: the timeline of 95_test_vectors.md section 4, and T2 -/

/-- Cycle 2: bulk_write 3 is accepted, nothing is written yet. -/
theorem test_edge_accept_bulk_write : nextIs (clockEdge (command 7 true 3 0) empty4)
    (fun t => decide (t.phase = phaseXferWr ∧ t.remain = 3 ∧ t.rspValid = true ∧ t.rspCount = 3 ∧ t.wrPos = 0 ∧
      t.store = [])) = true := by decide
/-- Cycle 6: the last write beat; the held len is not accepted. -/
theorem test_edge_last_write_beat : nextIs (clockEdge { command 5 false 0 0 with wrValid := true, wrByte := 0x33 } writing1)
    (fun t => decide (t.phase = phaseIdle ∧ t.remain = 0 ∧ t.wrPos = 3 ∧ t.rspValid = false ∧ t.rspCount = 3 ∧
      t.store = [(0, 0x11), (1, 0x22), (2, 0x33)])) = true := by decide
/-- Cycle 10: a read beat. -/
theorem test_edge_read_beat : nextIs (clockEdge taking reading2)
    (fun t => decide (t.rdStream = [0x11] ∧ t.rdPos = 1 ∧ t.remain = 1 ∧ t.phase = phaseXferRd)) = true := by decide
/-- Cycle 9: no beat, and the byte presented. -/
theorem test_edge_read_wait :
    nextIs (clockEdge PortIn.idle reading2) (fun t => decide (t.rdPos = 0 ∧ t.remain = 2 ∧ t.rspValid = false)) = true ∧
    (outputs false reading2).rdValid = true ∧ (outputs false reading2).rdByte = 0x11 ∧
    (outputs false reading2).cmdReady = false := by decide
/-- T2: a reset in a transfer. -/
theorem test_edge_reset : nextIs (clockEdge { offering 0x22 with rst := true } writing1)
    (fun t => decide (t.initDone = false ∧ t.phase = phaseIdle ∧ t.wrPos = 0 ∧ Memory.read t.store 0 = some 0x11)) = true := by
  decide

/-- The word of `init 8` (VI1) placed where the next step runs it, from reset. -/
theorem test_step_runs_placed_word : nextIs (step (State.reset.withFetchWord 44 0x00000008008))
    (fun t => decide (t.block.initDone = true ∧ t.block.mask = 7 ∧ t.block.host = [])) = true := by decide

/-! ### Witnesses: for each obligation with hypotheses, a state and operands that meet them all -/

theorem inv_reset : Inv (Block.reset Ref) where
  storeWf := by decide
  statusNamed := by decide
  phaseNamed := by decide
  uninitialized := by decide
  capacity := by decide
  lenBound := by decide
  liveWritten := by unfold Block.LiveWritten; decide
  idleRemain := by decide
  writeRemain := by decide
  readRemain := by decide

/-- The invariants of a concrete initialized state, from checks that evaluate. -/
theorem inv_of_checks {P : Params} {s : Block P} (k : Nat)
    (h : Memory.wf P.capMax s.store = true ∧ s.rspStatus ≠ 7 ∧ s.phase ≠ 0b11#2 ∧ s.initDone = true ∧
      (k ≤ P.awMax ∧ s.mask.toNat + 1 = 2 ^ k) ∧ s.len.toNat ≤ s.mask.toNat + 1 ∧
      (∀ i, i < s.len.toNat → (Memory.read s.store (s.idx (s.rdPos + BitVec.ofNat P.cntW i)).toNat).isSome = true) ∧
      (s.phase = phaseIdle → s.remain = 0) ∧
      (s.phase = phaseXferWr → 0 < s.remain.toNat ∧ s.len.toNat + s.remain.toNat ≤ s.mask.toNat + 1) ∧
      (s.phase = phaseXferRd → 0 < s.remain.toNat ∧ s.remain.toNat ≤ s.len.toNat)) : Inv s := by
  obtain ⟨h1, h2, h3, h4, h5, h6, h7, h8, h9, h10⟩ := h
  exact ⟨h1, h2, h3, fun e => absurd (h4.symm.trans e) (by decide), fun _ => ⟨k, h5⟩, h6, h7, h8, h9, h10⟩

theorem inv_full8 : Inv full8 := inv_of_checks 3 (by decide)
theorem inv_almost8 : Inv almost8 := inv_of_checks 3 (by decide)
theorem inv_two8 : Inv two8 := inv_of_checks 3 (by decide)
theorem inv_three8 : Inv three8 := inv_of_checks 3 (by decide)
theorem inv_empty8 : Inv empty8 := inv_of_checks 3 (by decide)
theorem inv_three4 : Inv three4 := inv_of_checks 2 (by decide)
theorem inv_wrap4 : Inv wrap4 := inv_of_checks 2 (by decide)
theorem inv_full1 : Inv full1 := inv_of_checks 0 (by decide)
theorem inv_empty4 : Inv empty4 := inv_of_checks 2 (by decide)
theorem inv_empty256 : Inv empty256 := inv_of_checks 8 (by decide)
theorem inv_fullTiny : Inv fullTiny := inv_of_checks 0 (by decide)
theorem inv_emptyTiny : Inv emptyTiny := inv_of_checks 0 (by decide)
theorem inv_writing1 : Inv writing1 := inv_of_checks 2 (by decide)
theorem inv_writing3 : Inv writing3 := inv_of_checks 2 (by decide)
theorem inv_reading2 : Inv reading2 := inv_of_checks 2 (by decide)
theorem inv_reading1 : Inv reading1 := inv_of_checks 2 (by decide)

theorem witness_DecodeEncodeRoundTrip :
    Instr.wf 32 (.bulkWrite 0xffffffff) = true ∧ Instr.wf 1 (.peek 1) = true := by decide
theorem witness_AssemblerLinesAreCanonical :
    AsmLine.wf 32 (.bulkWrite 0xffffffff [0, 255]) = true ∧ AsmLine.wf 32 (.put 255) = true ∧ AsmLine.wf 32 (.init 0) = true := by decide

theorem witness_StepRunsDecodedCommand_presented :
    ({ full8 with host := [.command 0x0000006400e []] } : Block Ref).host = .command 0x0000006400e [] :: [] ∧
      ({ full8 with host := [.command 0x0000006400e []] } : Block Ref).phase = phaseIdle := by decide
theorem witness_StepRunsDecodedCommand_placed :
    decodeTableWord 44 0xfffffffffff = some (.bulkWrite 0xffffffff) ∧ decodeTableWord 44 0 = some (.init false 0) ∧
      decodeTableWord 8 0x1ff = some (.bulkWrite 0) := by decide
theorem witness_StepRunsDecodedCommand_anyParameters :
    decodeNumber 1 (0x101f % 2 ^ 16) = .ok (.bulkWrite 1) := by rfl
theorem witness_ParametersNeverChange :
    (∃ t, exec (.put 1) ⟨Tiny, emptyTiny⟩ = .next t) ∧ ∃ t, step (State.resetAt Tiny) = .next t :=
  ⟨⟨_, rfl⟩, _, rfl⟩
/-- The largest capacity at the smallest parameters and at the reference ones. -/
theorem witness_CapacityCheckIsPowerOfTwo :
    capOk Tiny.awMax (1 : Count Tiny) = true ∧ capOk Ref.awMax (256 : Count Ref) = true := by decide
theorem witness_StepOfCyclesAndWaits_cycle :
    ({ full8 with host := [.cycle taking] } : Block Ref).host = .cycle taking :: [] := by decide
theorem witness_StepOfCyclesAndWaits_nothing : (Block.reset Ref).host = [] := by decide
theorem witness_StepOfCyclesAndWaits_reading :
    ({ reading1 with host := [.command 5 []] } : Block Ref).host = .command 5 [] :: [] ∧ reading1.phase = phaseXferRd := by decide
theorem witness_StepOfCyclesAndWaits_writing :
    ({ writing1 with host := [.command 5 []], wrData := [0x33] } : Block Ref).host = .command 5 [] :: [] ∧
      writing1.phase = phaseXferWr ∧
      ({ writing1 with host := [.command 5 []], wrData := [0x33] } : Block Ref).wrData = 0x33 :: [] := by decide
theorem witness_CycleAcceptRunsDecodedCommand :
    (command 1 true 9 0x5a).rst = false ∧ (command 1 true 9 0x5a).cmdValid = true ∧ full8.phase = phaseIdle ∧
    (∀ size, decodeFields (command 1 true 9 0x5a).cmdOp (command 1 true 9 0x5a).cmdArr (command 1 true 9 0x5a).cmdArg
      (command 1 true 9 0x5a).cmdByte ≠ .bulkRead size) ∧
    (∀ size, decodeFields (command 1 true 9 0x5a).cmdOp (command 1 true 9 0x5a).cmdArr (command 1 true 9 0x5a).cmdArg
      (command 1 true 9 0x5a).cmdByte ≠ .bulkWrite size) :=
  ⟨by decide, by decide, by decide, fun _ => Instr.noConfusion, fun _ => Instr.noConfusion⟩

/-- The smallest and the largest capacity, and the refused ones next to them. -/
theorem witness_InitRule :
    (¬ ((0 : Count Ref) ≠ 0 ∧ (0 : Count Ref) &&& (0 - 1) = 0 ∧ (0 : Count Ref).toNat ≤ Ref.capMax)) ∧
    (¬ ((3 : Count Ref) ≠ 0 ∧ (3 : Count Ref) &&& (3 - 1) = 0 ∧ (3 : Count Ref).toNat ≤ Ref.capMax)) ∧
    (¬ ((512 : Count Ref) ≠ 0 ∧ (512 : Count Ref) &&& (512 - 1) = 0 ∧ (512 : Count Ref).toNat ≤ Ref.capMax)) ∧
    ((1 : Count Ref) ≠ 0 ∧ (1 : Count Ref) &&& (1 - 1) = 0 ∧ (1 : Count Ref).toNat ≤ Ref.capMax) ∧
    ((256 : Count Ref) ≠ 0 ∧ (256 : Count Ref) &&& (256 - 1) = 0 ∧ (256 : Count Ref).toNat ≤ Ref.capMax) := by decide
theorem witness_LenRule : Inv (Block.reset Ref) ∧ (Block.reset Ref).initDone = false := ⟨inv_reset, by decide⟩
theorem witness_PutRule :
    (Block.reset Ref).initDone = false ∧
    (full8.initDone = true ∧ ¬ full8.wrPos - full8.rdPos ≤ full8.mask) ∧
    (full1.initDone = true ∧ ¬ full1.wrPos - full1.rdPos ≤ full1.mask) ∧
    (almost8.initDone = true ∧ almost8.wrPos - almost8.rdPos ≤ almost8.mask) := by decide
theorem witness_GetRule :
    (Block.reset Ref).initDone = false ∧
    (empty8.initDone = true ∧ empty8.wrPos - empty8.rdPos = 0) ∧
    (full1.initDone = true ∧ full1.wrPos - full1.rdPos ≠ 0) := by decide
/-- The offsets len() and len() - 1. -/
theorem witness_PeekRule :
    (Block.reset Ref).initDone = false ∧
    (three4.initDone = true ∧ ¬ (3 : Count Ref) < three4.wrPos - three4.rdPos) ∧
    (three4.initDone = true ∧ (2 : Count Ref) < three4.wrPos - three4.rdPos) := by decide
theorem witness_FlushRule : (Block.reset Ref).initDone = false ∧ full8.initDone = true := by decide
theorem witness_BulkReadQueryRule :
    (Block.reset Ref).initDone = false ∧
    (empty8.initDone = true ∧ empty8.wrPos - empty8.rdPos = 0) ∧
    (full1.initDone = true ∧ full1.wrPos - full1.rdPos ≠ 0) := by decide
theorem witness_BulkReadRule :
    (Block.reset Ref).initDone = false ∧
    (empty8.initDone = true ∧ empty8.wrPos - empty8.rdPos = 0) ∧
    (full8.initDone = true ∧ full8.wrPos - full8.rdPos ≠ 0) := by decide
theorem witness_BulkWriteQueryRule :
    (Block.reset Ref).initDone = false ∧
    (full8.initDone = true ∧ full8.mask - (full8.wrPos - full8.rdPos) + 1 = 0) ∧
    (almost8.initDone = true ∧ almost8.mask - (almost8.wrPos - almost8.rdPos) + 1 ≠ 0) := by decide
/-- Six bytes of space; five bytes offered are too few for a request of 6 or more, six are enough. -/
theorem witness_BulkWriteRule :
    (Block.reset Ref).initDone = false ∧
    (full8.initDone = true ∧ full8.mask - (full8.wrPos - full8.rdPos) + 1 = 0) ∧
    (two8.initDone = true ∧ two8.mask - (two8.wrPos - two8.rdPos) + 1 ≠ 0 ∧
      (6 : Count Ref).toNat = min (10 : Count Ref).toNat (two8.mask - (two8.wrPos - two8.rdPos) + 1).toNat ∧
      ({ two8 with wrData := [4, 5, 6, 7, 8] } : Block Ref).wrData.length < (6 : Count Ref).toNat ∧
      (6 : Count Ref).toNat ≤ ({ two8 with wrData := [4, 5, 6, 7, 8, 9] } : Block Ref).wrData.length) := by decide

/-- With and without bytes moved. -/
theorem witness_TransferResponseIsOver :
    (∃ t, exec (.bulkRead 0) ⟨Ref, three8⟩ = .next ⟨Ref, t⟩ ∧ t.rspStatus = 0 ∧ t.rspCount = 0) ∧
    (∃ t, exec (.bulkRead 2) ⟨Ref, three8⟩ = .next ⟨Ref, t⟩ ∧ t.rspStatus = 0 ∧ t.rspCount = 2) ∧
    (∃ t, exec (.bulkWrite 0) ⟨Ref, two8⟩ = .next ⟨Ref, t⟩ ∧ t.rspStatus = 0 ∧ t.rspCount = 0) ∧
    (∃ t, exec (.bulkWrite 6) ⟨Ref, { two8 with wrData := [4, 5, 6, 7, 8, 9] }⟩ = .next ⟨Ref, t⟩ ∧ t.rspStatus = 0 ∧
      t.rspCount = 6) :=
  ⟨⟨_, rfl, by decide⟩, ⟨_, rfl, by decide⟩, ⟨_, rfl, by decide⟩, _, rfl, by decide⟩

theorem witness_NonStoringCommandsLeaveStore :
    (∀ b, Instr.get ≠ .put b) ∧ (∀ size, Instr.get ≠ .bulkWrite size) ∧ ∃ t, exec .get ⟨Ref, wrap4⟩ = .next ⟨Ref, t⟩ :=
  ⟨fun _ => Instr.noConfusion, fun _ => Instr.noConfusion, _, rfl⟩
/-- A PUT that wraps, and a BULK_WRITE that leaves cell 1 outside its n cells. -/
theorem witness_StoringCommandsFrame :
    (∃ t, exec (.put 0xff) ⟨Ref, almost8⟩ = .next ⟨Ref, t⟩ ∧ t.rspStatus = 0) ∧
    (∃ t, exec (.bulkWrite 6) ⟨Ref, { two8 with wrData := [4, 5, 6, 7, 8, 9] }⟩ = .next ⟨Ref, t⟩ ∧ t.rspStatus = 0 ∧
      ∀ k, k < t.rspCount.toNat → (1 : Index Ref) ≠ two8.idx (two8.wrPos + BitVec.ofNat 32 k)) :=
  ⟨⟨_, rfl, by decide⟩, ⟨_, rfl, by decide, by decide⟩⟩
theorem witness_BulkWriteStoresItsData :
    Inv { two8 with wrData := [4, 5, 6, 7, 8, 9] } ∧
    ∃ t, exec (.bulkWrite 6) ⟨Ref, { two8 with wrData := [4, 5, 6, 7, 8, 9] }⟩ = .next ⟨Ref, t⟩ ∧ t.rspStatus = 0 ∧ 5 < t.rspCount.toNat :=
  ⟨inv_of_checks 3 (by decide), _, rfl, by decide, by decide⟩
theorem witness_InitDoneClearedOnlyByReset_command :
    (∀ cap, Instr.init false 8 ≠ .init true cap) ∧ ∃ t, exec (.init false 8) ⟨Ref, full8⟩ = .next ⟨Ref, t⟩ :=
  ⟨fun _ h => (by cases h), _, rfl⟩
theorem witness_InitDoneClearedOnlyByReset_step :
    (∀ p rest, writing1.host = .cycle p :: rest → p.rst = false) ∧ writing1.initDone = true ∧ ∃ t, step ⟨Ref, writing1⟩ = .next ⟨Ref, t⟩ :=
  ⟨fun _ _ h => (by cases h), by decide, _, rfl⟩
theorem witness_FailuresWriteOnlyTheResponse :
    (∃ t, exec (.put 0x10) ⟨Ref, full8⟩ = .next ⟨Ref, t⟩ ∧ t.rspStatus ≠ 0) ∧
    (∃ t, accept (.bulkWrite 2) full8 = .next t ∧ t.rspStatus ≠ 0) :=
  ⟨⟨_, rfl, by decide⟩, ⟨_, rfl, by decide⟩⟩

/-- One failing command for each status code 1 to 6. -/
theorem witness_StatusConditions :
    (∃ t, exec (.bulkRead 5) State.reset = .next ⟨Ref, t⟩ ∧ t.rspStatus = 1) ∧
    (∃ t, exec (.init false 8) ⟨Ref, two8⟩ = .next ⟨Ref, t⟩ ∧ t.rspStatus = 2) ∧
    (∃ t, exec (.bulkWrite 0) ⟨Ref, full8⟩ = .next ⟨Ref, t⟩ ∧ t.rspStatus = 3) ∧
    (∃ t, exec (.bulkRead 0) ⟨Ref, empty8⟩ = .next ⟨Ref, t⟩ ∧ t.rspStatus = 4) ∧
    (∃ t, exec (.peek 3) ⟨Ref, three4⟩ = .next ⟨Ref, t⟩ ∧ t.rspStatus = 5) ∧
    (∃ t, exec (.init true 512) ⟨Ref, two8⟩ = .next ⟨Ref, t⟩ ∧ t.rspStatus = 6) ∧
    Instr.wf 32 (.init true 512) = true ∧ Instr.wf 32 (.peek 3) = true ∧
    Inv (Block.reset Ref) ∧ Inv two8 ∧ Inv full8 ∧ Inv empty8 ∧ Inv three4 :=
  ⟨⟨_, rfl, by decide⟩, ⟨_, rfl, by decide⟩, ⟨_, rfl, by decide⟩, ⟨_, rfl, by decide⟩, ⟨_, rfl, by decide⟩,
    ⟨_, rfl, by decide⟩, by decide, by decide, inv_reset, inv_two8, inv_full8, inv_empty8, inv_three4⟩
theorem witness_StatusCodesNamed : Status.ofCode 6 = some .invalidCapacity ∧ Status.invalidCapacity.code = 6 := by decide
theorem witness_PutFullExactlyAtCapacity :
    (Inv full8 ∧ full8.initDone = true) ∧ (Inv almost8 ∧ almost8.initDone = true) :=
  ⟨⟨inv_full8, by decide⟩, inv_almost8, by decide⟩
/-- C = 1 and C = CAP_MAX, and a width and an index width other than the reference ones. -/
theorem witness_IndexerIsModuloCapacity :
    (0 ≤ 8 ∧ (0x0#32).toNat + 1 = 2 ^ 0) ∧ (8 ≤ 8 ∧ (0xff#32).toNat + 1 = 2 ^ 8) ∧ (2 ≤ 2 ∧ (0x3#5).toNat + 1 = 2 ^ 2) := by decide
theorem witness_IndexRunsOnAcrossWrap :
    (0 ≤ 8 ∧ (0x0#32).toNat + 1 = 2 ^ 0) ∧ (8 ≤ 8 ∧ (0xff#32).toNat + 1 = 2 ^ 8) := by decide
theorem witness_SpaceIsCapacityLessLength :
    (Inv full8 ∧ full8.initDone = true) ∧ (Inv empty256 ∧ empty256.initDone = true) ∧
    (Inv fullTiny ∧ fullTiny.initDone = true) ∧ (Inv emptyTiny ∧ emptyTiny.initDone = true) :=
  ⟨⟨inv_full8, by decide⟩, ⟨inv_empty256, by decide⟩, ⟨inv_fullTiny, by decide⟩, inv_emptyTiny, by decide⟩

/-- Each command once, from a state with the invariants, ending OK. -/
theorem witness_CommandsRefineAbstractQueue :
    (∃ t, exec (.init true 256) ⟨Ref, full8⟩ = .next ⟨Ref, t⟩ ∧ t.rspStatus = 0) ∧
    (∃ t, exec (.put 0xff) ⟨Ref, almost8⟩ = .next ⟨Ref, t⟩ ∧ t.rspStatus = 0) ∧
    (∃ t, exec .get ⟨Ref, wrap4⟩ = .next ⟨Ref, t⟩ ∧ t.rspStatus = 0) ∧
    (∃ t, exec (.peek 2) ⟨Ref, three4⟩ = .next ⟨Ref, t⟩ ∧ t.rspStatus = 0) ∧
    (∃ t, exec .flush ⟨Ref, full8⟩ = .next ⟨Ref, t⟩ ∧ t.rspStatus = 0) ∧
    (∃ t, exec .len State.reset = .next ⟨Ref, t⟩ ∧ t.rspStatus = 0) ∧
    (∃ t, exec .bulkReadQ ⟨Ref, three8⟩ = .next ⟨Ref, t⟩ ∧ t.rspStatus = 0) ∧
    (∃ t, exec (.bulkRead 0xffffffff) ⟨Ref, three8⟩ = .next ⟨Ref, t⟩ ∧ t.rspStatus = 0) ∧
    (∃ t, exec .bulkWriteQ ⟨Ref, two8⟩ = .next ⟨Ref, t⟩ ∧ t.rspStatus = 0) ∧
    (∃ t, exec (.bulkWrite 0) ⟨Ref, two8⟩ = .next ⟨Ref, t⟩ ∧ t.rspStatus = 0) ∧
    Instr.wf 32 (.init true 256) = true ∧ Instr.wf 32 (.bulkRead 0xffffffff) = true ∧
    Inv full8 ∧ Inv almost8 ∧ Inv wrap4 ∧ Inv three4 ∧ Inv (Block.reset Ref) ∧ Inv three8 ∧ Inv two8 :=
  ⟨⟨_, rfl, by decide⟩, ⟨_, rfl, by decide⟩, ⟨_, rfl, by decide⟩, ⟨_, rfl, by decide⟩, ⟨_, rfl, by decide⟩,
    ⟨_, rfl, by decide⟩, ⟨_, rfl, by decide⟩, ⟨_, rfl, by decide⟩, ⟨_, rfl, by decide⟩, ⟨_, rfl, by decide⟩,
    by decide, by decide, inv_full8, inv_almost8, inv_wrap4, inv_three4, inv_reset, inv_three8, inv_two8⟩
theorem witness_LengthChanges :
    (Inv (Block.reset Ref) ∧ ∃ t, exec (.put 1) State.reset = .next ⟨Ref, t⟩ ∧ t.initDone = false ∧ t.rspStatus ≠ 0) ∧
    (Inv almost8 ∧ ∃ t, exec (.put 1) ⟨Ref, almost8⟩ = .next ⟨Ref, t⟩ ∧ t.rspStatus = 0) :=
  ⟨⟨inv_reset, _, rfl, by decide, by decide⟩, inv_almost8, _, rfl, by decide⟩
/-- N = C and N = 0. -/
theorem witness_PutGetRoundTrip :
    Inv empty8 ∧ empty8.initDone = true ∧ empty8.len = 0 ∧ [1, 2, 3, 4, 5, 6, 7, 8].length ≤ empty8.mask.toNat + 1 ∧
      ([] : List Byte).length ≤ empty8.mask.toNat + 1 :=
  ⟨inv_empty8, by decide⟩
theorem witness_PeekAgreesWithGets : Inv three4 ∧ three4.initDone = true ∧ (2 : Count Ref) < three4.len :=
  ⟨inv_three4, by decide⟩
theorem witness_BulkTransfersEqualSingles :
    (Inv three8 ∧ ∃ t, exec (.bulkRead 2) ⟨Ref, three8⟩ = .next ⟨Ref, t⟩ ∧ t.rspStatus = 0) ∧
    (Inv { two8 with wrData := [4, 5, 6, 7, 8, 9] } ∧
      ∃ t, exec (.bulkWrite 6) ⟨Ref, { two8 with wrData := [4, 5, 6, 7, 8, 9] }⟩ = .next ⟨Ref, t⟩ ∧ t.rspStatus = 0) :=
  ⟨⟨inv_three8, _, rfl, by decide⟩, inv_of_checks 3 (by decide), _, rfl, by decide⟩
theorem witness_ZeroRequestsMoveNothing :
    (full1.initDone = true ∧ full1.wrPos - full1.rdPos ≠ 0) ∧
    (almost8.initDone = true ∧ almost8.mask - (almost8.wrPos - almost8.rdPos) + 1 ≠ 0) := by decide
theorem witness_SizeQueriesAddToCapacity :
    (Inv full8 ∧ full8.initDone = true) ∧ (Inv empty256 ∧ empty256.initDone = true) :=
  ⟨⟨inv_full8, by decide⟩, inv_empty256, by decide⟩
theorem witness_FlushIsIdempotent : Inv full8 ∧ Inv (Block.reset Ref) := ⟨inv_full8, inv_reset⟩
theorem witness_ReadsReturnWrittenBytes :
    (Inv wrap4 ∧ ∃ t, exec .get ⟨Ref, wrap4⟩ = .next ⟨Ref, t⟩ ∧ t.rspStatus = 0) ∧
    (Inv three4 ∧ ∃ t, exec (.peek 2) ⟨Ref, three4⟩ = .next ⟨Ref, t⟩ ∧ t.rspStatus = 0) ∧
    (Inv three8 ∧ ∃ t, exec (.bulkRead 3) ⟨Ref, three8⟩ = .next ⟨Ref, t⟩ ∧ t.rspStatus = 0 ∧ 2 < t.rspCount.toNat) :=
  ⟨⟨inv_wrap4, _, rfl, by decide⟩, ⟨inv_three4, _, rfl, by decide⟩, inv_three8, _, rfl, by decide, by decide⟩

/-- A step of each kind: an idle cycle in a transfer, a last beat, a command at a boundary, and a held command. -/
theorem witness_StepKeepsInvariants :
    (Inv writing3 ∧ ∃ t, step ⟨Ref, writing3⟩ = .next ⟨Ref, t⟩) ∧
    (Inv { reading1 with host := [.cycle taking] } ∧ ∃ t, step ⟨Ref, { reading1 with host := [.cycle taking] }⟩ = .next t) ∧
    (Inv { full8 with host := [.command 0x00000000002 []] } ∧
      ∃ t, step ⟨Ref, { full8 with host := [.command 0x00000000002 []] }⟩ = .next t) ∧
    (Inv { writing1 with host := [.command 0x00000000005 []], wrData := [0x33] } ∧
      ∃ t, step ⟨Ref, { writing1 with host := [.command 0x00000000005 []], wrData := [0x33] }⟩ = .next t) :=
  ⟨⟨inv_writing3, _, rfl⟩, ⟨inv_of_checks 2 (by decide), _, rfl⟩, ⟨inv_of_checks 3 (by decide), _, rfl⟩,
    inv_of_checks 2 (by decide), _, rfl⟩
/-- Two states that differ in cells outside the live window: two8, and two8 with a stale byte and an unreachable one. -/
theorem witness_StaleCellsAreUnobservable_next :
    Inv two8 ∧ SameView two8 { two8 with store := [(0, 0x55), (1, 0x02), (2, 0x03), (200, 0x66)] } ∧
      ∃ t, step ⟨Ref, two8⟩ = .next ⟨Ref, t⟩ :=
  ⟨inv_two8, ⟨rfl, rfl, rfl, rfl, by decide, rfl, rfl, rfl, rfl, rfl, rfl, rfl, rfl, rfl⟩, _, rfl⟩
theorem witness_StaleCellsAreUnobservable_fault :
    Inv { two8 with host := [.command 0x0000000600f [1]] } ∧
    SameView { two8 with host := [.command 0x0000000600f [1]] }
      { two8 with host := [.command 0x0000000600f [1]], store := [(1, 0x02), (2, 0x03), (7, 0x66)] } ∧
    step ⟨Ref, { two8 with host := [.command 0x0000000600f [1]] }⟩ = .fault .shortData :=
  ⟨inv_of_checks 3 (by decide), ⟨rfl, rfl, rfl, rfl, by decide, rfl, rfl, rfl, rfl, rfl, rfl, rfl, rfl, rfl⟩, rfl⟩

theorem witness_ResetRegisterValues : ({ offering 0x22 with rst := true } : PortIn Ref).rst = true := by decide
theorem witness_ResetAbandonsTransfer :
    ({ offering 0x22 with rst := true } : PortIn Ref).rst = true ∧ writing1.phase ≠ phaseIdle := by decide
theorem witness_OutputEquations : writing1.phase ≠ 0b00#2 := by decide
theorem witness_AcceptanceStartsTransfer_read :
    (command 6 true 1 0).rst = false ∧ (command 6 true 1 0).cmdValid = true ∧ three8.phase = phaseIdle ∧
    decodeFields (command 6 true 1 0).cmdOp (command 6 true 1 0).cmdArr (command 6 true 1 0).cmdArg
      (command 6 true 1 0).cmdByte = .bulkRead 1 ∧
    Inv three8 ∧ three8.initDone = true ∧ three8.len ≠ 0 ∧ (1 : Count Ref) ≠ 0 :=
  ⟨by decide, by decide, by decide, by decide, inv_three8, by decide, by decide, by decide⟩
/-- The largest transfer: 256 beats, from a request of 0xffffffff. -/
theorem witness_AcceptanceStartsTransfer_write :
    (command 7 true 0xffffffff 0).rst = false ∧ (command 7 true 0xffffffff 0).cmdValid = true ∧ empty256.phase = phaseIdle ∧
    decodeFields (command 7 true 0xffffffff 0).cmdOp (command 7 true 0xffffffff 0).cmdArr
      (command 7 true 0xffffffff 0).cmdArg (command 7 true 0xffffffff 0).cmdByte = .bulkWrite 0xffffffff ∧
    Inv empty256 ∧ empty256.initDone = true ∧ empty256.space ≠ 0 ∧ (0xffffffff : Count Ref) ≠ 0 :=
  ⟨by decide, by decide, by decide, by decide, inv_empty256, by decide, by decide, by decide⟩
theorem witness_EmptyTransferCompletesAtAcceptance :
    ((command 6 true 0 0).rst = false ∧ (command 6 true 0 0).cmdValid = true ∧ three8.phase = phaseIdle ∧
      decodeFields (command 6 true 0 0).cmdOp (command 6 true 0 0).cmdArr (command 6 true 0 0).cmdArg
        (command 6 true 0 0).cmdByte = .bulkRead 0 ∧
      ∃ t, exec (.bulkRead 0) ⟨Ref, three8⟩ = .next ⟨Ref, t⟩ ∧ (t.rspCount = 0 ∨ t.rspStatus ≠ 0)) ∧
    ((command 7 true 2 0).rst = false ∧ (command 7 true 2 0).cmdValid = true ∧ full8.phase = phaseIdle ∧
      decodeFields (command 7 true 2 0).cmdOp (command 7 true 2 0).cmdArr (command 7 true 2 0).cmdArg
        (command 7 true 2 0).cmdByte = .bulkWrite 2 ∧
      ∃ t, exec (.bulkWrite 2) ⟨Ref, full8⟩ = .next ⟨Ref, t⟩ ∧ (t.rspCount = 0 ∨ t.rspStatus ≠ 0)) :=
  ⟨⟨by decide, by decide, by decide, by decide, _, rfl, by decide⟩, by decide, by decide, by decide, by decide, _, rfl,
    by decide⟩
theorem witness_WriteBeat_beat :
    (offering 0x33).rst = false ∧ writing1.phase = phaseXferWr ∧ writing3.phase = phaseXferWr ∧
      (offering 0x33).wrValid = true := by decide
theorem witness_WriteBeat_wait : (PortIn.idle : PortIn Ref).rst = false ∧ writing1.phase = phaseXferWr ∧ (PortIn.idle : PortIn Ref).wrValid = false := by decide
theorem witness_WriteBeat_notFull : Inv writing3 ∧ writing3.phase = phaseXferWr := ⟨inv_writing3, by decide⟩
theorem witness_ReadBeat_beat :
    taking.rst = false ∧ reading1.phase = phaseXferRd ∧ reading2.phase = phaseXferRd ∧ taking.rdReady = true := by decide
theorem witness_ReadBeat_wait : (PortIn.idle : PortIn Ref).rst = false ∧ reading2.phase = phaseXferRd ∧ (PortIn.idle : PortIn Ref).rdReady = false := by decide
theorem witness_ReadBeat_presented : reading2.phase = phaseXferRd := by decide
/-- In each phase two input vectors that differ wherever they may. -/
theorem witness_InputsSampledOnlyWhereTheyMatter_idle :
    (PortIn.idle : PortIn Ref).rst = ({ (PortIn.idle : PortIn Ref) with cmdOp := 7, cmdArg := 9, wrValid := true, rdReady := true } : PortIn Ref).rst ∧
    (PortIn.idle : PortIn Ref).cmdValid = ({ (PortIn.idle : PortIn Ref) with cmdOp := 7, cmdArg := 9, wrValid := true, rdReady := true } : PortIn Ref).cmdValid ∧
    (PortIn.idle : PortIn Ref).cmdValid ≠ true ∧ full8.phase ≠ phaseXferWr ∧ full8.phase ≠ phaseXferRd := by decide
theorem witness_InputsSampledOnlyWhereTheyMatter_writing :
    (offering 5).rst = ({ offering 5 with cmdValid := true, rdReady := true } : PortIn Ref).rst ∧
    (offering 5).wrValid = ({ offering 5 with cmdValid := true, rdReady := true } : PortIn Ref).wrValid ∧
    (offering 5).wrByte = ({ offering 5 with cmdValid := true, rdReady := true } : PortIn Ref).wrByte ∧
    writing1.phase ≠ phaseIdle ∧ writing1.phase ≠ phaseXferRd := by decide
theorem witness_InputsSampledOnlyWhereTheyMatter_reading :
    taking.rst = ({ taking with cmdValid := true, wrValid := true } : PortIn Ref).rst ∧
    taking.rdReady = ({ taking with cmdValid := true, wrValid := true } : PortIn Ref).rdReady ∧
    reading1.phase ≠ phaseIdle ∧ reading1.phase ≠ phaseXferWr := by decide
theorem witness_ResponseLastsOneCycle :
    ((PortIn.idle : PortIn Ref).rst = false ∧ ∃ t, clockEdge PortIn.idle reading2 = .next t ∧ t.rspValid = false) ∧
    ((command 5 false 0 0).rst = false ∧ ∃ t, clockEdge (command 5 false 0 0) full8 = .next t) :=
  ⟨⟨by decide, _, rfl, by decide⟩, by decide, _, rfl⟩

/-- bulk_write 3 on an empty block of capacity 4: a wait, two beats, a wait and the last beat (the timeline's cycles 2 to 6). -/
theorem witness_BulkWriteCyclesAgree :
    Inv empty4 ∧ empty4.phase = phaseIdle ∧ empty4.initDone = true ∧ (command 7 true 3 0).rst = false ∧
    (command 7 true 3 0).cmdValid = true ∧
    decodeFields (command 7 true 3 0).cmdOp (command 7 true 3 0).cmdArr (command 7 true 3 0).cmdArg
      (command 7 true 3 0).cmdByte = .bulkWrite 3 ∧
    (∀ r ∈ [PortIn.idle, offering 0x11, PortIn.idle, offering 0x22] ++ [offering 0x33], r.rst = false) ∧
    (offering 0x33).wrValid = true ∧
    (writeBytes ([PortIn.idle, offering 0x11, PortIn.idle, offering 0x22] ++ [offering 0x33])).length =
      min (3 : Count Ref).toNat empty4.space.toNat :=
  ⟨inv_empty4, by decide, by decide, by decide, by decide, by decide, by decide, by decide, by decide⟩
/-- bulk_read 0xffffffff with three bytes buffered, across the ring's end. -/
theorem witness_BulkReadCyclesAgree :
    Inv three4 ∧ three4.phase = phaseIdle ∧ three4.initDone = true ∧ (command 6 true 0xffffffff 0).rst = false ∧
    (command 6 true 0xffffffff 0).cmdValid = true ∧
    decodeFields (command 6 true 0xffffffff 0).cmdOp (command 6 true 0xffffffff 0).cmdArr
      (command 6 true 0xffffffff 0).cmdArg (command 6 true 0xffffffff 0).cmdByte = .bulkRead 0xffffffff ∧
    (∀ r ∈ [taking, PortIn.idle, taking] ++ [taking], r.rst = false) ∧ taking.rdReady = true ∧
    readBeats ([taking, PortIn.idle, taking] ++ [taking]) = min (0xffffffff : Count Ref).toNat three4.len.toNat :=
  ⟨inv_three4, by decide, by decide, by decide, by decide, by decide, by decide, by decide, by decide⟩
theorem witness_HeldCommandReachesBoundary_reading :
    Inv { reading2 with host := [.command 0x00000000005 []] } ∧
    ({ reading2 with host := [.command 0x00000000005 []] } : Block Ref).phase = phaseXferRd ∧
    ({ reading2 with host := [.command 0x00000000005 []] } : Block Ref).host = .command 0x00000000005 [] :: [] :=
  ⟨inv_of_checks 2 (by decide), by decide, by decide⟩
theorem witness_HeldCommandReachesBoundary_writing :
    Inv { writing3 with host := [.command 0x00000000005 []], wrData := [7, 8, 9] } ∧
    ({ writing3 with host := [.command 0x00000000005 []], wrData := [7, 8, 9] } : Block Ref).phase = phaseXferWr ∧
    ({ writing3 with host := [.command 0x00000000005 []], wrData := [7, 8, 9] } : Block Ref).host =
      .command 0x00000000005 [] :: [] ∧
    ({ writing3 with host := [.command 0x00000000005 []], wrData := [7, 8, 9] } : Block Ref).remain.toNat ≤
      ({ writing3 with host := [.command 0x00000000005 []], wrData := [7, 8, 9] } : Block Ref).wrData.length :=
  ⟨inv_of_checks 2 (by decide), by decide, by decide, by decide⟩
theorem witness_InstancesAreIndependent : 1 ≠ 0 ∧ ∃ after, stepInstance 0 [⟨Ref, full8⟩, State.resetAt Tiny] = .next after :=
  ⟨by decide, _, rfl⟩

end Sys2Proof.Tests
end

section
/-! PROOFS. Scope: the capacity check is the power-of-two check up to CAP_MAX (00_scope.md R8, R14; 40_initialize.md R54), and the parameters are configuration (R11). -/

namespace Sys2Proof.Machine

/-! ### The capacity check -/

/-- Decrementing a count other than 0 does not wrap (R13). -/
theorem toNat_sub_one_of_ne_zero {w : Nat} {c : BitVec w} (h : c ≠ 0) : (c - 1).toNat = c.toNat - 1 := by
  have hpos : c.toNat ≠ 0 := fun h0 => h (BitVec.eq_of_toNat_eq (by simpa using h0))
  have hlt : c.toNat < 2 ^ w := c.isLt
  have hone : BitVec.toNat (1 : BitVec w) = 1 := Nat.mod_eq_of_lt (show 1 < 2 ^ w by omega)
  rw [BitVec.toNat_sub_of_le (by rw [BitVec.le_def]; omega), hone]

/-- is_pow2 on a count is Mathlib's test on its number (R14). -/
theorem isPow2_iff_isPowerOfTwo {w : Nat} (c : BitVec w) : isPow2 c = true ↔ c.toNat.isPowerOfTwo := by
  rw [← Nat.ne_zero_and_sub_one_eq_zero_iff_isPowerOfTwo]
  simp only [isPow2, Bool.and_eq_true, decide_eq_true_eq]
  have hzero : c ≠ 0 ↔ c.toNat ≠ 0 := by simp [BitVec.toNat_eq]
  rw [← hzero]
  refine and_congr_right fun h => ?_
  rw [BitVec.toNat_eq, BitVec.toNat_and, toNat_sub_one_of_ne_zero h]
  simp

/-- cap_ok accepts exactly the powers of two whose exponent is at most AW_MAX (40_initialize.md R54). -/
theorem capOk_iff_exists_two_pow (a : Nat) {w : Nat} (c : BitVec w) :
    capOk a c = true ↔ ∃ k, k ≤ a ∧ c.toNat = 2 ^ k := by
  simp only [capOk, Bool.and_eq_true, decide_eq_true_eq, isPow2_iff_isPowerOfTwo]
  constructor
  · rintro ⟨⟨k, hk⟩, hle⟩
    exact ⟨k, (Nat.pow_le_pow_iff_right (by decide)).mp (hk ▸ hle), hk⟩
  · rintro ⟨k, hka, hk⟩
    exact ⟨⟨k, hk⟩, hk ▸ Nat.pow_le_pow_right (by decide) hka⟩

/-- An accepted capacity is at most CAP_MAX (R54). -/
theorem toNat_le_of_capOk {a w : Nat} {c : BitVec w} (h : capOk a c = true) : c.toNat ≤ 2 ^ a := by
  obtain ⟨k, hka, hk⟩ := (capOk_iff_exists_two_pow a c).mp h
  exact hk ▸ Nat.pow_le_pow_right (by decide) hka

/-- CAP_MAX is at most half the counter's range (R8). -/
theorem capMax_le_half (P : Params) : P.capMax ≤ 2 ^ (P.cntW - 1) :=
  Nat.pow_le_pow_right (by decide) (Nat.le_sub_one_of_lt P.fits)

/-! ### The parameters are configuration -/

/-- A command answers a state with the parameters it had. -/
theorem exec_params {i : Instr} {s t : State} (h : exec i s = .next t) : t.params = s.params :=
  liftBlock_params ((exec_eq i s).symm.trans h)

/-- A step answers a state with the parameters it had, whichever kind of step it is. -/
theorem step_params {s t : State} (h : step s = .next t) : t.params = s.params := by
  obtain ⟨P, b⟩ := s
  obtain ⟨-, hs⟩ | ⟨p, rest, -, hs⟩ | ⟨c, d, rest, -, -, hs⟩ | ⟨c, d, rest, -, -, hs⟩ := step_cases b
  · exact liftBlock_params (hs.symm.trans h)
  · exact liftBlock_params (hs.symm.trans h)
  · exact liftBlock_params (hs.symm.trans h)
  · cases hs.symm.trans h
    rfl

end Sys2Proof.Machine

namespace Sys2Proof.Proofs

open Sys2Proof.Machine

/-- Settles O33: is_pow2 is the library's power-of-two test on the number, and CAP_MAX is at most half the counter's range. -/
theorem capacityCheckIsPowerOfTwo : Obligations.CapacityCheckIsPowerOfTwo :=
  ⟨fun _ a c => capOk_iff_exists_two_pow a c, fun P _ h => (toNat_le_of_capOk h).trans (capMax_le_half P)⟩

/-- Settles O8: exec and every kind of step answer through the block, whose parameters the machine keeps. -/
theorem parametersNeverChange : Obligations.ParametersNeverChange :=
  ⟨fun _ _ _ => exec_params, fun _ _ => step_params⟩

end Sys2Proof.Proofs
end

section
/-! PROOFS. State: which commands and steps change INIT_DONE and MASK (10_state.md R19, R20), how long a response lasts (R25; 70_reset_and_hazards.md R102, R107), and the reset values (10_state.md R28; 70_reset_and_hazards.md R98). -/

namespace Sys2Proof.Machine

variable {P : Params} {i : Instr} {s t : Block P} {p : PortIn P}

/-! ### What every command leaves of INIT_DONE, MASK and RSP_VALID -/

@[simp] theorem Block.writeRun_initDone (s : Block P) (q : Count P) (bs : List Byte) :
    (s.writeRun q bs).initDone = s.initDone := by
  rw [Block.writeRun_eq]

@[simp] theorem Block.writeRun_mask (s : Block P) (q : Count P) (bs : List Byte) : (s.writeRun q bs).mask = s.mask := by
  rw [Block.writeRun_eq]

/-- The answers a command has, told apart by what they make of INIT_DONE, MASK and RSP_VALID. -/
inductive Block.Answer (i : Instr) (s : Block P) : Block P → Prop where
  /-- A successful INIT binds a capacity (R53). -/
  | binds (cap : Nat) : i = .init true cap →
      Answer i s ((s.bindCapacity (BitVec.ofNat P.cntW cap)).respond .ok 0 0)
  /-- A response over registers with the INIT_DONE and MASK of before: a failure (R88), or a command that completes at once. -/
  | responds (u : Block P) (st : Status) (b : Byte) (n : Count P) : u.initDone = s.initDone → u.mask = s.mask →
      Answer i s (u.respond st b n)
  /-- The end of n beats, which are a transfer of the cycle level unless n is 0 (R103). -/
  | transfers (u : Block P) (n : Count P) : u.initDone = s.initDone → u.mask = s.mask →
      (n ≠ 0 → transferOf i s ≠ none) → Answer i s (u.respondTransfer n)

theorem transferOf_bulkRead_ne_none {size : Nat} (hi : s.initDone = true) (hl : s.len ≠ 0)
    (hn : s.readCount (BitVec.ofNat P.cntW size) ≠ 0) : transferOf (.bulkRead size) s ≠ none := by
  simpa [transferOf, hi] using ⟨hl, hn⟩

theorem transferOf_bulkWrite_ne_none {size : Nat} (hi : s.initDone = true) (hl : s.space ≠ 0)
    (hn : s.writeCount (BitVec.ofNat P.cntW size) ≠ 0) : transferOf (.bulkWrite size) s ≠ none := by
  simpa [transferOf, hi] using ⟨hl, hn⟩

/-- Every state a command's rule answers is one of its answers. -/
theorem Block.answer_of_rule (h : s.rule i = .next t) : s.Answer i t := by
  cases i with
  | init arr cap =>
    obtain ⟨-, hs⟩ | ⟨-, -, hs⟩ | ⟨rfl, -, hs⟩ := Block.initRule_cases arr (BitVec.ofNat P.cntW cap) s
      <;> cases hs.symm.trans h
    · exact .responds _ _ _ _ rfl rfl
    · exact .responds _ _ _ _ rfl rfl
    · exact .binds cap rfl
  | put b =>
    obtain ⟨-, hs⟩ | ⟨-, -, hs⟩ | ⟨-, -, hs⟩ := Block.putRule_cases b s
      <;> cases hs.symm.trans h <;> exact .responds _ _ _ _ rfl rfl
  | get =>
    obtain ⟨-, hs⟩ | ⟨-, -, hs⟩ | ⟨-, -, hs⟩ := Block.getRule_cases s
      <;> cases hs.symm.trans h <;> exact .responds _ _ _ _ rfl rfl
  | peek k =>
    obtain ⟨-, hs⟩ | ⟨-, -, hs⟩ | ⟨-, -, hs⟩ := Block.peekRule_cases (BitVec.ofNat P.cntW k) s
      <;> cases hs.symm.trans h <;> exact .responds _ _ _ _ rfl rfl
  | flush =>
    obtain ⟨-, hs⟩ | ⟨-, hs⟩ := Block.flushRule_cases s
      <;> cases hs.symm.trans h <;> exact .responds _ _ _ _ rfl rfl
  | len =>
    cases h
    exact .responds _ _ _ _ rfl rfl
  | bulkReadQ =>
    obtain ⟨-, hs⟩ | ⟨-, -, hs⟩ | ⟨-, -, hs⟩ := Block.bulkReadQRule_cases s
      <;> cases hs.symm.trans h <;> exact .responds _ _ _ _ rfl rfl
  | bulkRead size =>
    obtain ⟨-, hs⟩ | ⟨-, -, hs⟩ | ⟨hi, hl, hs⟩ := Block.bulkReadRule_cases (BitVec.ofNat P.cntW size) s
      <;> cases hs.symm.trans h
    · exact .responds _ _ _ _ rfl rfl
    · exact .responds _ _ _ _ rfl rfl
    · exact .transfers _ _ rfl rfl (transferOf_bulkRead_ne_none hi hl)
  | bulkWriteQ =>
    obtain ⟨-, hs⟩ | ⟨-, -, hs⟩ | ⟨-, -, hs⟩ := Block.bulkWriteQRule_cases s
      <;> cases hs.symm.trans h <;> exact .responds _ _ _ _ rfl rfl
  | bulkWrite size =>
    obtain ⟨-, hs⟩ | ⟨-, -, hs⟩ | ⟨-, -, -, hs⟩ | ⟨hi, hl, -, hs⟩ :=
      Block.bulkWriteRule_cases (BitVec.ofNat P.cntW size) s <;> cases hs.symm.trans h
    · exact .responds _ _ _ _ rfl rfl
    · exact .responds _ _ _ _ rfl rfl
    · exact .transfers _ _ (by simp) (by simp) (transferOf_bulkWrite_ne_none hi hl)

/-! ### INIT_DONE and MASK -/

/-- Only INIT with ARR = 1 changes INIT_DONE or MASK (R19, R20). -/
theorem Block.rule_keeps_capacity (hi : ∀ cap, i ≠ .init true cap) (h : s.rule i = .next t) :
    t.initDone = s.initDone ∧ t.mask = s.mask := by
  cases Block.answer_of_rule h with
  | binds cap hcap => exact absurd hcap (hi cap)
  | responds _ _ _ _ hd hm => exact ⟨hd, hm⟩
  | transfers _ _ hd hm => exact ⟨hd, hm⟩

/-- No command clears INIT_DONE (R19). -/
theorem Block.rule_keeps_initDone (h : s.rule i = .next t) (hs : s.initDone = true) : t.initDone = true := by
  cases Block.answer_of_rule h with
  | binds => rfl
  | responds _ _ _ _ hd => exact hd.trans hs
  | transfers _ _ hd => exact hd.trans hs

@[simp] theorem Block.wait_initDone (s : Block P) (p : PortIn P) : (s.wait p).initDone = s.initDone := by
  obtain ⟨-, -, h⟩ | ⟨-, -, h⟩ | ⟨-, -, h⟩ := s.wait_cases p <;> rw [h] <;> rfl

@[simp] theorem Block.holdCommand_initDone (s : Block P) (c : CmdWord P) : (s.holdCommand c).initDone = s.initDone := by
  simp only [Block.holdCommand]
  split <;> simp

theorem accept_keeps_initDone (h : accept i s = .next t) (hs : s.initDone = true) : t.initDone = true := by
  obtain ⟨ph, n, -, ha⟩ | ⟨-, ha⟩ := accept_cases i s
  · cases ha.symm.trans h
    exact hs
  · exact Block.rule_keeps_initDone (ha.symm.trans h) hs

/-- No edge but a reset edge clears INIT_DONE (R19). -/
theorem clockEdge_keeps_initDone (hr : p.rst = false) (h : clockEdge p s = .next t) (hs : s.initDone = true) :
    t.initDone = true := by
  obtain ⟨hr', -⟩ | ⟨-, -, -, he⟩ | ⟨-, -, he⟩ := clockEdge_cases p s
  · simp [hr] at hr'
  · exact accept_keeps_initDone (he.symm.trans h) hs
  · cases he.symm.trans h
    simpa using hs

/-- No step clears INIT_DONE, unless the host presents a reset edge (R19). -/
theorem step_keeps_initDone (hr : ∀ p rest, s.host = .cycle p :: rest → p.rst = false)
    (h : step ⟨P, s⟩ = .next ⟨P, t⟩) (hs : s.initDone = true) : t.initDone = true := by
  obtain ⟨-, he⟩ | ⟨p, rest, hh, he⟩ | ⟨c, d, rest, -, -, he⟩ | ⟨c, d, rest, -, -, he⟩ := step_cases s
  · exact clockEdge_keeps_initDone rfl (liftBlock_eq_next_iff.mp (he.symm.trans h)) hs
  · exact clockEdge_keeps_initDone (hr p rest hh) (liftBlock_eq_next_iff.mp (he.symm.trans h)) hs
  · exact Block.rule_keeps_initDone (liftBlock_eq_next_iff.mp (he.symm.trans h)) hs
  · cases he.symm.trans h
    simpa using hs

/-! ### The response registers -/

/-- An edge that accepts nothing ends the response's cycle and keeps its contents (R25, R102). -/
theorem Block.wait_response (s : Block P) (p : PortIn P) :
    (s.wait p).rspValid = false ∧ (s.wait p).rspStatus = s.rspStatus ∧ (s.wait p).rspByte = s.rspByte ∧
      (s.wait p).rspCount = s.rspCount := by
  obtain ⟨-, -, h⟩ | ⟨-, -, h⟩ | ⟨-, -, h⟩ := s.wait_cases p <;> rw [h] <;> exact ⟨rfl, rfl, rfl, rfl⟩

/-- An accepted command has its response presented next (R102, R107): a transfer's is registered as it starts, and a bulk
rule applied at acceptance moves no bytes. -/
theorem accept_rspValid (h : accept i s = .next t) : t.rspValid = true := by
  obtain ⟨ph, n, -, ha⟩ | ⟨hnone, ha⟩ := accept_cases i s
  · cases ha.symm.trans h
    rfl
  · cases Block.answer_of_rule (ha.symm.trans h) with
    | binds => rfl
    | responds => rfl
    | transfers u n _ _ hn =>
      have hzero : n = 0 := by
        by_contra hne
        exact hn hne hnone
      simp [hzero]

end Sys2Proof.Machine

namespace Sys2Proof.Proofs

open Sys2Proof.Machine

/-- Settles O26: every rule's answer keeps INIT_DONE and MASK or binds a capacity, and no edge without rst clears INIT_DONE. -/
theorem initDoneClearedOnlyByReset : Obligations.InitDoneClearedOnlyByReset :=
  ⟨fun _ _ _ _ hi h => Block.rule_keeps_capacity hi (exec_eq_next_iff.mp h), fun _ _ _ hr hs h => step_keeps_initDone hr h hs⟩

/-- Settles O55: an edge without rst accepts a command, which presents its response, or waits, which ends the one before. -/
theorem responseLastsOneCycle : Obligations.ResponseLastsOneCycle := by
  intro P s t p hr h
  obtain ⟨hr', -⟩ | ⟨-, hv, hp, he⟩ | ⟨-, hno, he⟩ := clockEdge_cases p s
  · simp [hr] at hr'
  · have hvalid : t.rspValid = true := accept_rspValid (he.symm.trans h)
    simp [hvalid, hv, hp]
  · cases he.symm.trans h
    obtain ⟨hvalid, hkept⟩ := s.wait_response p
    refine ⟨?_, fun _ => hkept⟩
    obtain hv | hp := hno
    · simp [hvalid, hv]
    · simp [hvalid, hp]

/-- Settles O47: a reset edge takes the reset branch of the clock edge, whatever the other inputs are, and the reset state
is written with the values of R28. -/
theorem resetRegisterValues : Obligations.ResetRegisterValues := by
  refine ⟨fun P s p hr => ?_, fun P => ⟨rfl, rfl, rfl, rfl, rfl, rfl, rfl, rfl, rfl, rfl⟩, rfl⟩
  obtain ⟨-, he⟩ | ⟨hr', -⟩ | ⟨hr', -⟩ := clockEdge_cases p s
  · exact he
  · simp [hr] at hr'
  · simp [hr] at hr'

end Sys2Proof.Proofs
end

section
/-! PROOFS. Storage: which commands leave STORE alone (20_memory.md R32, R39), and the indexer as reduction modulo the capacity (R33). -/

namespace Sys2Proof.Machine

variable {P : Params} {i : Instr} {s t : Block P}

/-- Only PUT and BULK_WRITE write STORE (R32, R39): the other commands respond over a block whose counters, capacity or rd
stream may have moved, and none of these moves writes a cell. -/
theorem Block.rule_keeps_store (hput : ∀ b, i ≠ .put b) (hwrite : ∀ size, i ≠ .bulkWrite size) (h : s.rule i = .next t) :
    t.store = s.store := by
  cases i with
  | init arr cap =>
    obtain ⟨-, hs⟩ | ⟨-, -, hs⟩ | ⟨-, -, hs⟩ := Block.initRule_cases arr (BitVec.ofNat P.cntW cap) s
      <;> cases hs.symm.trans h <;> rfl
  | put b => exact absurd rfl (hput b)
  | get =>
    obtain ⟨-, hs⟩ | ⟨-, -, hs⟩ | ⟨-, -, hs⟩ := Block.getRule_cases s <;> cases hs.symm.trans h <;> rfl
  | peek k =>
    obtain ⟨-, hs⟩ | ⟨-, -, hs⟩ | ⟨-, -, hs⟩ := Block.peekRule_cases (BitVec.ofNat P.cntW k) s
      <;> cases hs.symm.trans h <;> rfl
  | flush =>
    obtain ⟨-, hs⟩ | ⟨-, hs⟩ := Block.flushRule_cases s <;> cases hs.symm.trans h <;> rfl
  | len =>
    cases h
    rfl
  | bulkReadQ =>
    obtain ⟨-, hs⟩ | ⟨-, -, hs⟩ | ⟨-, -, hs⟩ := Block.bulkReadQRule_cases s <;> cases hs.symm.trans h <;> rfl
  | bulkRead size =>
    obtain ⟨-, hs⟩ | ⟨-, -, hs⟩ | ⟨-, -, hs⟩ := Block.bulkReadRule_cases (BitVec.ofNat P.cntW size) s
      <;> cases hs.symm.trans h <;> rfl
  | bulkWriteQ =>
    obtain ⟨-, hs⟩ | ⟨-, -, hs⟩ | ⟨-, -, hs⟩ := Block.bulkWriteQRule_cases s <;> cases hs.symm.trans h <;> rfl
  | bulkWrite size => exact absurd rfl (hwrite size)

/-- A mask of k ones keeps the position modulo 2^k, and an index width of k or more cuts nothing off that (R33). -/
theorem indexer_toNat_of_two_pow {w a k : Nat} {mask : BitVec w} (p : BitVec w) (hka : k ≤ a)
    (hmask : mask.toNat + 1 = 2 ^ k) : (indexer a mask p).toNat = p.toNat % 2 ^ k := by
  have hones : mask.toNat = 2 ^ k - 1 := by omega
  have hfits : p.toNat % 2 ^ k < 2 ^ a :=
    (Nat.mod_lt _ (Nat.two_pow_pos k)).trans_le (Nat.pow_le_pow_right (by decide) hka)
  rw [indexer, BitVec.toNat_setWidth, BitVec.toNat_and, hones, Nat.and_two_pow_sub_one_eq_mod, Nat.mod_eq_of_lt hfits]

end Sys2Proof.Machine

namespace Sys2Proof.Proofs

open Sys2Proof.Machine

/-- Settles O23: no rule but PUT's and BULK_WRITE's writes STORE, and a cell is read from STORE alone. -/
theorem nonStoringCommandsLeaveStore : Obligations.NonStoringCommandsLeaveStore := by
  intro P s t i hput hwrite h
  have hstore : t.store = s.store := Block.rule_keeps_store hput hwrite (exec_eq_next_iff.mp h)
  exact ⟨hstore, Block.memRead_congr hstore⟩

/-- Settles O31: the indexer is its formula, there is one index of width 0, and MASK is k ones where MASK + 1 is 2^k. -/
theorem indexerIsModuloCapacity : Obligations.IndexerIsModuloCapacity := by
  intro w a k mask p
  refine ⟨rfl, BitVec.of_length_zero, fun hka hmask => ?_⟩
  rw [hmask]
  exact indexer_toNat_of_two_pow p hka hmask

end Sys2Proof.Proofs
end

section
/-! PROOFS. Encoding: the command word and its fields (30_encoding.md R46), the decoder against the opcode map (R49 to R51), the lines of the command-stream syntax (R52), and the status codes (R47). -/

namespace Sys2Proof

/-- The values of a 3-bit code: those of the OP field (R46) and of rsp_status (R47). -/
theorem threeBitCode_cases (c : BitVec 3) :
    c = 0 ∨ c = 1 ∨ c = 2 ∨ c = 3 ∨ c = 4 ∨ c = 5 ∨ c = 6 ∨ c = 7 := by
  decide +revert

/-! ### The command word (R46) -/

theorem toNat_append_eq_add {m n : Nat} (x : BitVec m) (y : BitVec n) : (x ++ y).toNat = 2 ^ n * x.toNat + y.toNat := by
  rw [BitVec.toNat_append, ← Nat.shiftLeft_add_eq_or_of_lt y.isLt, Nat.shiftLeft_eq, Nat.mul_comm]

section

variable {w : Nat} (arg : BitVec w) (byte : Byte) (arr : Bool) (op : OpCode)

/-- Each field stands above the ones below it: OP has 3 bits, ARR 1 and BYTE 8. -/
theorem packWord_toNat :
    (packWord arg byte arr op).toNat = op.toNat + 8 * arr.toNat + 16 * byte.toNat + 4096 * arg.toNat := by
  simp only [packWord, toNat_append_eq_add, BitVec.toNat_ofBool]
  omega

@[simp] theorem opField_packWord : opField (packWord arg byte arr op) = op := by
  rw [opField, packWord, BitVec.extractLsb'_append_eq_of_add_le (by decide),
    BitVec.extractLsb'_append_eq_of_add_le (by decide), BitVec.extractLsb'_append_eq_right]

@[simp] theorem arrField_packWord : arrField (packWord arg byte arr op) = arr := by
  rw [arrField, packWord, BitVec.getLsbD_append, if_pos (by decide), BitVec.getLsbD_append, if_pos (by decide),
    BitVec.getLsbD_append, if_neg (by decide), BitVec.getLsbD_ofBool]
  rfl

@[simp] theorem byteField_packWord : byteField (packWord arg byte arr op) = byte := by
  rw [byteField, packWord, BitVec.extractLsb'_append_eq_of_add_le (by decide), BitVec.extractLsb'_append_eq_left]

@[simp] theorem argField_packWord : argField (packWord arg byte arr op) = arg := by
  rw [argField, packWord, BitVec.extractLsb'_append_eq_left]

/-- Decoding a packed word looks its fields up in the opcode map. -/
@[simp] theorem decode_packWord : decode (packWord arg byte arr op) = decodeFields op arr arg byte := by
  simp [decode]

end

/-- The bits the opcode table is keyed on are ARR above OP (R49). -/
theorem extractLsb'_tableBits {w : Nat} (c : BitVec (w + 12)) :
    c.extractLsb' 0 4 = BitVec.ofBool (arrField c) ++ opField c := by
  have harr : c.extractLsb' 3 1 = BitVec.ofBool (arrField c) := by
    apply BitVec.eq_of_getLsbD_eq
    intro j hj
    obtain rfl : j = 0 := by omega
    simp [arrField, -BitVec.getLsbD_eq_getElem]
  rw [← harr]
  exact (BitVec.extractLsb'_append_extractLsb'_eq_extractLsb' (x := c) (start₁ := 0) (len₁ := 3) (len₂ := 1) rfl).symm

/-! ### Well-formed commands (R45, R50) -/

/-- A command is well formed exactly when its ARG value fits cmd_arg; a command without one has the value 0. -/
theorem Instr.wf_iff_arg_lt {w : Nat} {i : Instr} : i.wf w = true ↔ i.arg < 2 ^ w := by
  cases i <;> simp [Instr.wf, Instr.arg]

theorem decodeFields_wf {w : Nat} (op : OpCode) (arr : Bool) (arg : BitVec w) (byte : Byte) :
    (decodeFields op arr arg byte).wf w = true := by
  rw [Instr.wf_iff_arg_lt]
  have hzero : 0 < 2 ^ w := Nat.two_pow_pos w
  have harg : arg.toNat < 2 ^ w := arg.isLt
  obtain rfl | rfl | rfl | rfl | rfl | rfl | rfl | rfl := threeBitCode_cases op
  · exact harg
  · exact hzero
  · exact hzero
  · exact harg
  · exact hzero
  · exact hzero
  · cases arr
    · exact hzero
    · exact harg
  · cases arr
    · exact hzero
    · exact harg

/-- The opcode map undoes a well-formed command's canonical fields (R49, R51). -/
theorem decodeFields_canonical {w : Nat} {i : Instr} (h : i.wf w = true) :
    decodeFields i.op i.arr (BitVec.ofNat w i.arg) i.byte = i := by
  have harg : (BitVec.ofNat w i.arg).toNat = i.arg := Nat.mod_eq_of_lt (Instr.wf_iff_arg_lt.mp h)
  cases i with
  | init arr cap => exact congrArg (Instr.init arr) harg
  | peek offset => exact congrArg Instr.peek harg
  | bulkRead size => exact congrArg Instr.bulkRead harg
  | bulkWrite size => exact congrArg Instr.bulkWrite harg
  | put | get | flush | len | bulkReadQ | bulkWriteQ => rfl

theorem decode_encode {w : Nat} {i : Instr} (h : i.wf w = true) : decode (encode w i) = i := by
  rw [encode, decode_packWord, decodeFields_canonical h]

/-! ### The opcode table (R49) -/

/-- Which command is named depends on OP and ARR alone. -/
theorem decodeFields_mnemonic {w : Nat} (op : OpCode) (arr : Bool) (arg : BitVec w) (byte : Byte) :
    (decodeFields op arr arg byte).mnemonic = (decodeFields op arr 0#0 0).mnemonic := by
  obtain rfl | rfl | rfl | rfl | rfl | rfl | rfl | rfl := threeBitCode_cases op
  all_goals cases arr <;> rfl

/-- The table's ten rows against the sixteen values of ARR and OP. -/
theorem opcodeRows_match_iff_mnemonic :
    ∀ (op : OpCode) (arr : Bool), ∀ row ∈ opcodeRows,
      (BitVec.ofBool arr ++ op) &&& row.2.2 = row.2.1 ↔ (decodeFields op arr 0#0 0).mnemonic = row.1 := by
  decide

theorem opcodeRows_cover :
    ∀ (op : OpCode) (arr : Bool), ∃ row ∈ opcodeRows, (BitVec.ofBool arr ++ op) &&& row.2.2 = row.2.1 := by
  decide

end Sys2Proof

namespace Sys2Proof.Machine

/-! ### The lines of the command-stream syntax (R52) -/

/-- The command a line names, its operand as written. -/
def AsmLine.instr : AsmLine → Instr
  | .init cap => .init true cap
  | .initNull cap => .init false cap
  | .put byte => .put (BitVec.ofNat 8 byte)
  | .get => .get
  | .peek index => .peek index
  | .flush => .flush
  | .len => .len
  | .bulkReadQ => .bulkReadQ
  | .bulkRead size => .bulkRead size
  | .bulkWriteQ => .bulkWriteQ
  | .bulkWrite size _ => .bulkWrite size

/-- The row of R52's table is the canonical spelling of the line's command. -/
theorem AsmLine.word_eq_encode_instr (w : Nat) (l : AsmLine) : l.word w = encode w l.instr := by
  cases l <;> rfl

theorem AsmLine.instr_arg (l : AsmLine) : l.instr.arg = l.fields.arg := by
  cases l <;> rfl

theorem AsmLine.instr_wf {w : Nat} {l : AsmLine} (h : l.wf w = true) : l.instr.wf w = true := by
  rw [Instr.wf_iff_arg_lt, AsmLine.instr_arg]
  simp only [AsmLine.wf, RawCommand.wf, Bool.and_eq_true, decide_eq_true_eq] at h
  obtain ⟨⟨⟨-, harg⟩, -⟩, -⟩ := h
  exact harg

/-! ### The status codes (R47) -/

/-- Every code but the reserved one is some status's. -/
theorem Status.exists_code_eq {c : BitVec 3} (h : c ≠ 7) : ∃ st : Status, st.code = c := by
  obtain rfl | rfl | rfl | rfl | rfl | rfl | rfl | rfl := threeBitCode_cases c
  · exact ⟨.ok, rfl⟩
  · exact ⟨.notInitialized, rfl⟩
  · exact ⟨.nullStorage, rfl⟩
  · exact ⟨.full, rfl⟩
  · exact ⟨.empty, rfl⟩
  · exact ⟨.outOfRange, rfl⟩
  · exact ⟨.invalidCapacity, rfl⟩
  · exact absurd rfl h

theorem Status.ofCode_reserved : Status.ofCode 7 = none := rfl

theorem Status.ofCode_eq_some_iff {c : BitVec 3} {st : Status} : Status.ofCode c = some st ↔ st.code = c := by
  constructor
  · intro h
    obtain ⟨st', rfl⟩ : ∃ st' : Status, st'.code = c := Status.exists_code_eq (by rintro rfl; cases h)
    rw [Status.ofCode_code, Option.some.injEq] at h
    rw [h]
  · rintro rfl
    exact Status.ofCode_code st

end Sys2Proof.Machine

namespace Sys2Proof.Proofs

open Sys2Proof.Machine

/-- Settles O2: the field readers undo the packing, and the opcode map undoes the canonical fields of a command whose
operand fits; an operand read from ARG always fits. -/
theorem decodeEncodeRoundTrip : Obligations.DecodeEncodeRoundTrip :=
  ⟨fun _ _ h => decode_encode h, fun _ _ => decodeFields_wf _ _ _ _⟩

/-- Settles O1: the fields stand one above the other. -/
theorem commandWordLayout : Obligations.CommandWordLayout :=
  fun _ arg byte arr op => ⟨packWord_toNat arg byte arr op, opField_packWord arg byte arr op,
    arrField_packWord arg byte arr op, byteField_packWord arg byte arr op, argField_packWord arg byte arr op⟩

/-- Settles O3: decoding a packed word is the opcode map on its fields, whose branch for each OP drops the unused ones, and
ARG written from its own number is ARG. -/
theorem unusedFieldsIgnored : Obligations.UnusedFieldsIgnored := by
  intro w arg byte arr
  have hencode : ∀ i : Instr, i.arg = arg.toNat → encode w i = packWord arg i.byte i.arr i.op := by
    intro i hi
    rw [encode, hi, BitVec.ofNat_toNat, BitVec.setWidth_eq]
  simp only [decode_packWord]
  exact ⟨⟨rfl, hencode _ rfl⟩, ⟨rfl, rfl⟩, ⟨rfl, rfl⟩, ⟨rfl, hencode _ rfl⟩, ⟨rfl, rfl⟩, ⟨rfl, rfl⟩, ⟨rfl, rfl⟩,
    ⟨rfl, hencode _ rfl⟩, ⟨rfl, rfl⟩, ⟨rfl, hencode _ rfl⟩⟩

/-- Settles O4: the table's bits and the decoded mnemonic both depend on ARR and OP alone, which have sixteen values. -/
theorem decodeFollowsOpcodeTable : Obligations.DecodeFollowsOpcodeTable := by
  intro w c
  rw [extractLsb'_tableBits, decode, decodeFields_mnemonic]
  exact ⟨opcodeRows_match_iff_mnemonic _ _, opcodeRows_cover _ _⟩

/-- Settles O6: a line's word is the canonical word of the command the line names, which is well formed as the line is. -/
theorem assemblerLinesAreCanonical : Obligations.AssemblerLinesAreCanonical := by
  intro w l h
  have hdecode : decode (l.word w) = l.instr := by
    rw [AsmLine.word_eq_encode_instr, decode_encode (AsmLine.instr_wf h)]
  refine ⟨by rw [hdecode, AsmLine.word_eq_encode_instr], hdecode.trans ?_⟩
  cases l <;> rfl

/-- Settles O29: a status is named by its own code, and every code but 7 is a status's. -/
theorem statusCodesNamed : Obligations.StatusCodesNamed :=
  ⟨⟨rfl, rfl, rfl, rfl, rfl, rfl, rfl⟩, fun _ _ => Status.ofCode_eq_some_iff, Status.ofCode_reserved⟩

end Sys2Proof.Proofs
end

section
/-! PROOFS. Initialize: INIT answers by the storage flag, then by the capacity check (40_initialize.md R53 to R55, R57). -/

namespace Sys2Proof.Machine

variable {P : Params}

/-- cap_ok in the bits of the capacity (00_scope.md R14; R54). -/
theorem capOk_iff_pow2_test (cap : Count P) :
    capOk P.awMax cap = true ↔ cap ≠ 0 ∧ cap &&& (cap - 1) = 0 ∧ cap.toNat ≤ P.capMax := by
  simp [capOk, isPow2, Params.capMax, and_assoc]

/-- The operand of INIT as a number is the capacity the rule takes. -/
theorem exec_init_toNat (arr : Bool) (cap : Count P) (s : Block P) :
    exec (.init arr cap.toNat) ⟨P, s⟩ = liftBlock P (s.initRule arr cap) := by
  rw [exec_mk, Block.rule, BitVec.ofNat_toNat, BitVec.setWidth_eq]

/-- A NULL storage is reported whatever the capacity is (R55). -/
theorem Block.initRule_null (cap : Count P) (s : Block P) :
    s.initRule false cap = .next (s.respond .nullStorage 0 0) := rfl

theorem Block.initRule_of_not_capOk {cap : Count P} (s : Block P) (hcap : ¬ capOk P.awMax cap = true) :
    s.initRule true cap = .next (s.respond .invalidCapacity 0 0) := by
  obtain ⟨harr, -⟩ | ⟨-, -, h⟩ | ⟨-, hok, -⟩ := Block.initRule_cases true cap s
  · cases harr
  · exact h
  · exact absurd hok hcap

theorem Block.initRule_of_capOk {cap : Count P} (s : Block P) (hcap : capOk P.awMax cap = true) :
    s.initRule true cap = .next ((s.bindCapacity cap).respond .ok 0 0) := by
  obtain ⟨harr, -⟩ | ⟨-, hbad, -⟩ | ⟨-, -, h⟩ := Block.initRule_cases true cap s
  · cases harr
  · simp [hcap] at hbad
  · exact h

end Sys2Proof.Machine

namespace Sys2Proof.Proofs

open Sys2Proof.Machine

/-- Settles O12: INIT's row of the opcode map, and the rule's three answers: the storage flag is tested first, and the
capacity check is the bit test up to CAP_MAX. -/
theorem initRule : Obligations.InitRule := by
  refine ⟨fun w cap byte arr => ?_, fun P s cap => ?_⟩
  · obtain ⟨hinit, -⟩ := unusedFieldsIgnored w cap byte arr
    exact hinit
  · rw [← capOk_iff_pow2_test, exec_init_toNat, exec_init_toNat]
    refine ⟨by rw [Block.initRule_null]; rfl, fun hbad => ?_, fun hne hpow hle => ?_⟩
    · rw [Block.initRule_of_not_capOk s hbad]
      rfl
    · rw [Block.initRule_of_capOk s ((capOk_iff_pow2_test cap).mpr ⟨hne, hpow, hle⟩)]
      rfl

end Sys2Proof.Proofs
end

section
/-! PROOFS. Length: LEN reports len() and changes only the response (41_length.md R60, R61). -/

namespace Sys2Proof.Machine

variable {P : Params}

/-- LEN responds OK with len() on any block (R61). -/
theorem exec_len (s : Block P) : exec .len ⟨P, s⟩ = .next ⟨P, s.respond .ok 0 s.len⟩ :=
  exec_mk .len s

/-- Both counters of an uninitialized block are 0 (10_state.md R29 (I1)), so it buffers nothing (R61, R62). -/
theorem Inv.len_eq_zero_of_uninitialized {s : Block P} (hinv : Inv s) (hd : s.initDone = false) : s.len = 0 := by
  obtain ⟨hrd, hwr, -, -⟩ := hinv.uninitialized hd
  rw [Block.len, hrd, hwr]
  exact lengthOf_self 0

end Sys2Proof.Machine

namespace Sys2Proof.Proofs

open Sys2Proof.Machine

/-- Settles O13: LEN's row of the opcode map and its word at CNT_W = 32; LEN's response holds len(), which is the difference
of the counters and 0 on an uninitialized block. -/
theorem lenRule : Obligations.LenRule := by
  refine ⟨fun w arg byte arr => ?_, by decide, fun _ s => exec_len s, fun P s hinv hd => ?_⟩
  · obtain ⟨-, -, -, -, -, hlen, -⟩ := unusedFieldsIgnored w arg byte arr
    exact hlen
  · rw [exec_len, hinv.len_eq_zero_of_uninitialized hd]
    rfl

end Sys2Proof.Proofs
end

section
/-! PROOFS. Single: what PUT, GET, PEEK and FLUSH answer, one equation per outcome, and the byte each position of the abstract queue holds (42_single_element.md R63 to R66; 10_state.md R29). -/

namespace Sys2Proof.Machine

variable {P : Params} {s : Block P} {b : Byte} {k : Count P}

/-! ### The abstract queue by position (R29) -/

/-- Q[n] is the byte n positions after RD_POS. -/
theorem Block.queue_getElem? {n : Nat} (h : n < s.len.toNat) :
    s.queue[n]? = some (s.memRead (s.idx (s.rdPos + BitVec.ofNat P.cntW n))) := by
  have hn : n < s.queue.length := by rwa [Block.queue, Block.readRun_length]
  rw [List.getElem?_eq_getElem hn]
  exact congrArg some (s.readRun_getElem s.rdPos s.len.toNat n hn)

/-- The offset of a position as PEEK takes it, a counter's width. -/
theorem Block.queue_getElem?_toNat (h : k < s.len) :
    s.queue[k.toNat]? = some (s.memRead (s.idx (s.rdPos + k))) := by
  rw [Block.queue_getElem? (BitVec.lt_def.mp h), BitVec.ofNat_toNat, BitVec.setWidth_eq]

theorem Block.queue_head (h : s.len ≠ 0) : s.queue[0]? = some (s.memRead (s.idx s.rdPos)) := by
  have hpos : (0 : Count P) < s.len := (BitVec.pos_iff_ne_zero s.len).mpr h
  simpa using Block.queue_getElem?_toNat hpos

/-! ### PUT (R63) -/

theorem Block.putRule_of_uninitialized (hd : s.initDone = false) :
    s.putRule b = .next (s.respond .notInitialized 0 0) := by
  simpa [hd] using s.putRule_cases b

theorem Block.putRule_of_full (hd : s.initDone = true) (hfull : ¬ s.len ≤ s.mask) :
    s.putRule b = .next (s.respond .full 0 0) := by
  simpa [hd, hfull] using s.putRule_cases b

theorem Block.putRule_of_room (hd : s.initDone = true) (hroom : s.len ≤ s.mask) :
    s.putRule b = .next ((s.putByte b).respond .ok 0 0) := by
  simpa [hd, hroom] using s.putRule_cases b

/-! ### GET (R64) -/

theorem Block.getRule_of_uninitialized (hd : s.initDone = false) :
    s.getRule = .next (s.respond .notInitialized 0 0) := by
  simpa [hd] using s.getRule_cases

theorem Block.getRule_of_empty (hd : s.initDone = true) (hempty : s.len = 0) :
    s.getRule = .next (s.respond .empty 0 0) := by
  simpa [hd, hempty] using s.getRule_cases

theorem Block.getRule_of_nonempty (hd : s.initDone = true) (hne : s.len ≠ 0) :
    s.getRule = .next ((s.setRdPos (s.rdPos + 1)).respond .ok (s.memRead (s.idx s.rdPos)) 0) := by
  simpa [hd, hne, -BitVec.ofNat_eq_ofNat] using s.getRule_cases

/-! ### PEEK (R65) -/

/-- The operand of PEEK as a number is the offset the rule takes. -/
theorem exec_peek_toNat (k : Count P) (s : Block P) : exec (.peek k.toNat) ⟨P, s⟩ = liftBlock P (s.peekRule k) := by
  rw [exec_mk, Block.rule, BitVec.ofNat_toNat, BitVec.setWidth_eq]

theorem Block.peekRule_of_uninitialized (hd : s.initDone = false) :
    s.peekRule k = .next (s.respond .notInitialized 0 0) := by
  simpa [hd] using s.peekRule_cases k

theorem Block.peekRule_of_outOfRange (hd : s.initDone = true) (hout : ¬ k < s.len) :
    s.peekRule k = .next (s.respond .outOfRange 0 0) := by
  simpa [hd, hout] using s.peekRule_cases k

theorem Block.peekRule_of_inRange (hd : s.initDone = true) (hin : k < s.len) :
    s.peekRule k = .next (s.respond .ok (s.memRead (s.idx (s.rdPos + k))) 0) := by
  simpa [hd, hin] using s.peekRule_cases k

/-! ### FLUSH (R66) -/

theorem Block.flushRule_of_uninitialized (hd : s.initDone = false) :
    s.flushRule = .next (s.respond .ok 0 0) := by
  simpa [hd] using s.flushRule_cases

theorem Block.flushRule_of_initialized (hd : s.initDone = true) :
    s.flushRule = .next ((s.setRdPos s.wrPos).respond .ok 0 0) := by
  simpa [hd] using s.flushRule_cases

end Sys2Proof.Machine

namespace Sys2Proof.Proofs

open Sys2Proof.Machine

/-- Settles O14: PUT's row of the opcode map, and PUT's three answers; the stored byte is at idx(WR_POS). -/
theorem putRule : Obligations.PutRule := by
  refine ⟨fun w arg byte arr => ?_, fun P s b => ⟨fun hd => ?_, fun hd hfull => ?_, fun hd hroom => ?_⟩⟩
  · obtain ⟨-, hput, -⟩ := unusedFieldsIgnored w arg byte arr
    exact hput
  · exact exec_eq_next_iff.mpr (Block.putRule_of_uninitialized hd)
  · exact exec_eq_next_iff.mpr (Block.putRule_of_full hd hfull)
  · exact exec_eq_next_iff.mpr (Block.putRule_of_room hd hroom)

/-- Settles O15: GET's row of the opcode map and its word at CNT_W = 32, and GET's three answers; the byte at idx(RD_POS) is
the head of the queue. -/
theorem getRule : Obligations.GetRule := by
  refine ⟨fun w arg byte arr => ?_, by decide,
    fun P s => ⟨fun hd => ?_, fun hd hempty => ?_, fun hd hne => ⟨?_, Block.queue_head hne⟩⟩⟩
  · obtain ⟨-, -, hget, -⟩ := unusedFieldsIgnored w arg byte arr
    exact hget
  · exact exec_eq_next_iff.mpr (Block.getRule_of_uninitialized hd)
  · exact exec_eq_next_iff.mpr (Block.getRule_of_empty hd hempty)
  · exact exec_eq_next_iff.mpr (Block.getRule_of_nonempty hd hne)

/-- Settles O16: PEEK's row of the opcode map, and PEEK's three answers; the byte at idx(RD_POS + ARG) is the queue's at
position ARG. -/
theorem peekRule : Obligations.PeekRule := by
  refine ⟨fun w arg byte arr => ?_, fun P s k => ?_⟩
  · obtain ⟨-, -, -, hpeek, -⟩ := unusedFieldsIgnored w arg byte arr
    exact hpeek
  · rw [exec_peek_toNat]
    refine ⟨fun hd => ?_, fun hd hout => ?_, fun hd hin => ⟨?_, Block.queue_getElem?_toNat hin⟩⟩
    · exact liftBlock_eq_next_iff.mpr (Block.peekRule_of_uninitialized hd)
    · exact liftBlock_eq_next_iff.mpr (Block.peekRule_of_outOfRange hd hout)
    · exact liftBlock_eq_next_iff.mpr (Block.peekRule_of_inRange hd hin)

/-- Settles O17: FLUSH's row of the opcode map and its word at CNT_W = 32, and FLUSH's two answers, both OK. -/
theorem flushRule : Obligations.FlushRule := by
  refine ⟨fun w arg byte arr => ?_, by decide, fun P s => ⟨fun hd => ?_, fun hd => ?_⟩⟩
  · obtain ⟨-, -, -, -, hflush, -⟩ := unusedFieldsIgnored w arg byte arr
    exact hflush
  · exact exec_eq_next_iff.mpr (Block.flushRule_of_uninitialized hd)
  · exact exec_eq_next_iff.mpr (Block.flushRule_of_initialized hd)

end Sys2Proof.Proofs
end

section
/-! PROOFS. Bulk: what BULK_READ and BULK_WRITE and their size queries answer, one equation per outcome, and a run of writes as a fold over the positions it writes (43_bulk_transfer.md R74 to R77, R79, R83). -/

namespace Sys2Proof.Machine

variable {P : Params} {s : Block P} {size : Count P}

/-! ### Runs of writes by position (R77) -/

/-- The position one on from p, then k further, is k + 1 on from p. -/
theorem add_one_add_ofNat {w : Nat} (p : BitVec w) (k : Nat) :
    p + 1 + BitVec.ofNat w k = p + BitVec.ofNat w (k + 1) := by
  rw [BitVec.add_assoc, Nat.add_comm k, BitVec.ofNat_add]
  rfl

/-- Writing the first n bytes of d from p on writes d[k] at idx(p + k), for k from 0 up: the first write is position 0 of the
fold, and the rest of the run is the same fold from p + 1 over the rest of d. -/
theorem Block.writeRun_take_store (s : Block P) (p : Count P) (d : List Byte) {n : Nat} (hn : n ≤ d.length) :
    (s.writeRun p (d.take n)).store = (List.range n).foldl (fun m k =>
      Memory.write m (s.idx (p + BitVec.ofNat P.cntW k)).toNat (d.getD k 0)) s.store := by
  induction n generalizing s p d with
  | zero => rfl
  | succ n ih =>
    cases d with
    | nil => cases hn
    | cons b d =>
      rw [List.take_succ_cons, Block.writeRun_cons, ih _ _ _ (Nat.le_of_succ_le_succ hn), List.range_succ_eq_map,
        List.foldl_cons, List.foldl_map]
      simp [add_one_add_ofNat, -BitVec.ofNat_eq_ofNat]

/-! ### The number of bytes moved (R79) -/

theorem Block.readCount_toNat (s : Block P) (size : Count P) :
    (s.readCount size).toNat = min size.toNat s.len.toNat :=
  minCount_toNat size s.len

theorem Block.writeCount_toNat (s : Block P) (size : Count P) :
    (s.writeCount size).toNat = min size.toNat s.space.toNat :=
  minCount_toNat size s.space

/-! ### BULK_READ.Q (R74) -/

theorem Block.bulkReadQRule_of_uninitialized (hd : s.initDone = false) :
    s.bulkReadQRule = .next (s.respond .notInitialized 0 0) := by
  simpa [hd] using s.bulkReadQRule_cases

theorem Block.bulkReadQRule_of_empty (hd : s.initDone = true) (hempty : s.len = 0) :
    s.bulkReadQRule = .next (s.respond .empty 0 0) := by
  simpa [hd, hempty] using s.bulkReadQRule_cases

theorem Block.bulkReadQRule_of_nonempty (hd : s.initDone = true) (hne : s.len ≠ 0) :
    s.bulkReadQRule = .next (s.respond .ok 0 s.len) := by
  simpa [hd, hne, -BitVec.ofNat_eq_ofNat] using s.bulkReadQRule_cases

/-! ### BULK_READ (R75) -/

/-- The operand of BULK_READ as a number is the size the rule takes. -/
theorem exec_bulkRead_toNat (size : Count P) (s : Block P) :
    exec (.bulkRead size.toNat) ⟨P, s⟩ = liftBlock P (s.bulkReadRule size) := by
  rw [exec_mk, Block.rule, BitVec.ofNat_toNat, BitVec.setWidth_eq]

theorem Block.bulkReadRule_of_uninitialized (hd : s.initDone = false) :
    s.bulkReadRule size = .next (s.respond .notInitialized 0 0) := by
  simpa [hd] using s.bulkReadRule_cases size

theorem Block.bulkReadRule_of_empty (hd : s.initDone = true) (hempty : s.len = 0) :
    s.bulkReadRule size = .next (s.respond .empty 0 0) := by
  simpa [hd, hempty] using s.bulkReadRule_cases size

theorem Block.bulkReadRule_of_nonempty (hd : s.initDone = true) (hne : s.len ≠ 0) :
    s.bulkReadRule size = .next (((s.deliver (s.readRun s.rdPos (s.readCount size).toNat)).setRdPos
      (s.rdPos + s.readCount size)).respondTransfer (s.readCount size)) := by
  simpa [hd, hne, -BitVec.ofNat_eq_ofNat] using s.bulkReadRule_cases size

/-! ### BULK_WRITE.Q (R76) -/

theorem Block.bulkWriteQRule_of_uninitialized (hd : s.initDone = false) :
    s.bulkWriteQRule = .next (s.respond .notInitialized 0 0) := by
  simpa [hd] using s.bulkWriteQRule_cases

theorem Block.bulkWriteQRule_of_full (hd : s.initDone = true) (hfull : s.space = 0) :
    s.bulkWriteQRule = .next (s.respond .full 0 0) := by
  simpa [hd, hfull] using s.bulkWriteQRule_cases

theorem Block.bulkWriteQRule_of_room (hd : s.initDone = true) (hroom : s.space ≠ 0) :
    s.bulkWriteQRule = .next (s.respond .ok 0 s.space) := by
  simpa [hd, hroom, -BitVec.ofNat_eq_ofNat] using s.bulkWriteQRule_cases

/-! ### BULK_WRITE (R77, R83) -/

/-- The operand of BULK_WRITE as a number is the size the rule takes. -/
theorem exec_bulkWrite_toNat (size : Count P) (s : Block P) :
    exec (.bulkWrite size.toNat) ⟨P, s⟩ = liftBlock P (s.bulkWriteRule size) := by
  rw [exec_mk, Block.rule, BitVec.ofNat_toNat, BitVec.setWidth_eq]

theorem Block.bulkWriteRule_of_uninitialized (hd : s.initDone = false) :
    s.bulkWriteRule size = .next (s.respond .notInitialized 0 0) := by
  simpa [hd] using s.bulkWriteRule_cases size

theorem Block.bulkWriteRule_of_full (hd : s.initDone = true) (hfull : s.space = 0) :
    s.bulkWriteRule size = .next (s.respond .full 0 0) := by
  simpa [hd, hfull] using s.bulkWriteRule_cases size

theorem Block.bulkWriteRule_of_shortData (hd : s.initDone = true) (hroom : s.space ≠ 0)
    (hshort : s.wrData.length < (s.writeCount size).toNat) : s.bulkWriteRule size = .fault .shortData := by
  simpa [hd, hroom, hshort, Nat.not_le.mpr hshort, -BitVec.ofNat_eq_ofNat] using s.bulkWriteRule_cases size

/-- With D long enough, STORE, WR_POS, D and the response are all that changes. -/
theorem Block.bulkWriteRule_of_data (hd : s.initDone = true) (hroom : s.space ≠ 0)
    (hdata : (s.writeCount size).toNat ≤ s.wrData.length) :
    s.bulkWriteRule size = .next ({ s with
      store := (List.range (s.writeCount size).toNat).foldl (fun m k =>
        Memory.write m (s.idx (s.wrPos + BitVec.ofNat P.cntW k)).toNat (s.wrData.getD k 0)) s.store,
      wrPos := s.wrPos + s.writeCount size,
      wrData := s.wrData.drop (s.writeCount size).toNat }.respondTransfer (s.writeCount size)) := by
  have hrule : s.bulkWriteRule size = .next ((((s.writeRun s.wrPos (s.wrData.take (s.writeCount size).toNat)).consume
      (s.writeCount size).toNat).setWrPos (s.wrPos + s.writeCount size)).respondTransfer (s.writeCount size)) := by
    simpa [hd, hroom, hdata, Nat.not_lt.mpr hdata, -BitVec.ofNat_eq_ofNat] using s.bulkWriteRule_cases size
  rw [hrule, Block.writeRun_eq, Block.writeRun_take_store s s.wrPos s.wrData hdata]
  rfl

end Sys2Proof.Machine

namespace Sys2Proof.Proofs

open Sys2Proof.Machine

/-- Settles O21: BULK_WRITE's row of the opcode map, and its answers: the two failures, and with n = min(ARG, space) the
fault of a D shorter than n or the writes of D's first n bytes one position after another. -/
theorem bulkWriteRule : Obligations.BulkWriteRule := by
  refine ⟨fun w arg byte => ?_, fun P s size => ?_⟩
  · obtain ⟨-, -, -, -, -, -, -, -, -, hwrite⟩ := unusedFieldsIgnored w arg byte true
    exact hwrite
  · rw [exec_bulkWrite_toNat]
    refine ⟨fun hd => ?_, fun hd hfull => ?_, fun hd hroom =>
      ⟨s.writeCount size, s.writeCount_toNat size, fun hshort => ?_, fun hdata => ⟨decide (s.writeCount size = 0), ?_⟩⟩⟩
    · exact liftBlock_eq_next_iff.mpr (Block.bulkWriteRule_of_uninitialized hd)
    · exact liftBlock_eq_next_iff.mpr (Block.bulkWriteRule_of_full hd hfull)
    · exact liftBlock_eq_fault_iff.mpr (Block.bulkWriteRule_of_shortData hd hroom hshort)
    · exact liftBlock_eq_next_iff.mpr (Block.bulkWriteRule_of_data hd hroom hdata)

/-- Settles O18: BULK_READ.Q's row of the opcode map and its word at CNT_W = 32, and its three answers, each a response over
the block of before. -/
theorem bulkReadQueryRule : Obligations.BulkReadQueryRule := by
  refine ⟨fun w arg byte => ?_, by decide, fun P s => ⟨fun hd => ?_, fun hd hempty => ?_, fun hd hne => ?_⟩⟩
  · obtain ⟨-, -, -, -, -, -, hquery, -⟩ := unusedFieldsIgnored w arg byte false
    exact hquery
  · exact exec_eq_next_iff.mpr (Block.bulkReadQRule_of_uninitialized hd)
  · exact exec_eq_next_iff.mpr (Block.bulkReadQRule_of_empty hd hempty)
  · exact exec_eq_next_iff.mpr (Block.bulkReadQRule_of_nonempty hd hne)

/-- Settles O19: BULK_READ's row of the opcode map, and its answers: the two failures, and the delivery of the
n = min(ARG, len()) bytes from RD_POS on. -/
theorem bulkReadRule : Obligations.BulkReadRule := by
  refine ⟨fun w arg byte => ?_, fun P s size => ?_⟩
  · obtain ⟨-, -, -, -, -, -, -, hread, -⟩ := unusedFieldsIgnored w arg byte true
    exact hread
  · rw [exec_bulkRead_toNat]
    refine ⟨fun hd => ?_, fun hd hempty => ?_, fun hd hne =>
      ⟨s.readCount size, decide (s.readCount size = 0), s.readCount_toNat size, ?_⟩⟩
    · exact liftBlock_eq_next_iff.mpr (Block.bulkReadRule_of_uninitialized hd)
    · exact liftBlock_eq_next_iff.mpr (Block.bulkReadRule_of_empty hd hempty)
    · exact liftBlock_eq_next_iff.mpr (Block.bulkReadRule_of_nonempty hd hne)

/-- Settles O20: BULK_WRITE.Q's row of the opcode map and its word at CNT_W = 32, and its three answers, each a response over
the block of before. -/
theorem bulkWriteQueryRule : Obligations.BulkWriteQueryRule := by
  refine ⟨fun w arg byte => ?_, by decide, fun P s => ⟨fun hd => ?_, fun hd hfull => ?_, fun hd hroom => ?_⟩⟩
  · obtain ⟨-, -, -, -, -, -, -, -, hquery, -⟩ := unusedFieldsIgnored w arg byte false
    exact hquery
  · exact exec_eq_next_iff.mpr (Block.bulkWriteQRule_of_uninitialized hd)
  · exact exec_eq_next_iff.mpr (Block.bulkWriteQRule_of_full hd hfull)
  · exact exec_eq_next_iff.mpr (Block.bulkWriteQRule_of_room hd hroom)

end Sys2Proof.Proofs
end

section
/-! PROOFS. Exceptions: how a command ends, by the table of the failure kinds (60_exceptions.md R87, R88), that a clock edge always answers (R91), and the isolation of instances (R96). -/

namespace Sys2Proof.Machine

variable {P : Params} {i : Instr} {st : Status} {s t : Block P}

/-! ### The table of failures (R87) -/

/-- The failure kinds as the rules test for them: which command, in which block, ends with which status. -/
inductive Block.FailsWith (s : Block P) : Instr → Status → Prop where
  | notInitialized {i : Instr} : s.initDone = false → i ≠ .flush → i ≠ .len → (∀ arr cap, i ≠ .init arr cap) →
      FailsWith s i .notInitialized
  | nullStorage (cap : Nat) : FailsWith s (.init false cap) .nullStorage
  | invalidCapacity {cap : Nat} : ¬ capOk P.awMax (BitVec.ofNat P.cntW cap) = true →
      FailsWith s (.init true cap) .invalidCapacity
  | putFull (b : Byte) : s.initDone = true → ¬ s.len ≤ s.mask → FailsWith s (.put b) .full
  | bulkWriteQFull : s.initDone = true → s.space = 0 → FailsWith s .bulkWriteQ .full
  | bulkWriteFull (size : Nat) : s.initDone = true → s.space = 0 → FailsWith s (.bulkWrite size) .full
  | getEmpty : s.initDone = true → s.len = 0 → FailsWith s .get .empty
  | bulkReadQEmpty : s.initDone = true → s.len = 0 → FailsWith s .bulkReadQ .empty
  | bulkReadEmpty (size : Nat) : s.initDone = true → s.len = 0 → FailsWith s (.bulkRead size) .empty
  | peekOutOfRange {k : Nat} : s.initDone = true → ¬ BitVec.ofNat P.cntW k < s.len → FailsWith s (.peek k) .outOfRange

/-- A command the table lists fails, with the response of R88 over the block of before. -/
theorem Block.rule_of_failsWith (hf : s.FailsWith i st) : s.rule i = .next (s.respond st 0 0) := by
  cases hf with
  | notInitialized hd hflush hlen hinit =>
    cases i with
    | init arr cap => exact absurd rfl (hinit arr cap)
    | put b => exact Block.putRule_of_uninitialized hd
    | get => exact Block.getRule_of_uninitialized hd
    | peek k => exact Block.peekRule_of_uninitialized hd
    | flush => exact absurd rfl hflush
    | len => exact absurd rfl hlen
    | bulkReadQ => exact Block.bulkReadQRule_of_uninitialized hd
    | bulkRead size => exact Block.bulkReadRule_of_uninitialized hd
    | bulkWriteQ => exact Block.bulkWriteQRule_of_uninitialized hd
    | bulkWrite size => exact Block.bulkWriteRule_of_uninitialized hd
  | nullStorage cap => exact Block.initRule_null _ s
  | invalidCapacity hcap => exact Block.initRule_of_not_capOk s hcap
  | putFull b hd hfull => exact Block.putRule_of_full hd hfull
  | bulkWriteQFull hd hfull => exact Block.bulkWriteQRule_of_full hd hfull
  | bulkWriteFull size hd hfull => exact Block.bulkWriteRule_of_full hd hfull
  | getEmpty hd hempty => exact Block.getRule_of_empty hd hempty
  | bulkReadQEmpty hd hempty => exact Block.bulkReadQRule_of_empty hd hempty
  | bulkReadEmpty size hd hempty => exact Block.bulkReadRule_of_empty hd hempty
  | peekOutOfRange hd hout => exact Block.peekRule_of_outOfRange hd hout

/-- The three ends of a command: a failure of the table, status OK, or no step at all, which is a BULK_WRITE that has bytes
to move and is offered too few of them (43_bulk_transfer.md R83). -/
theorem Block.rule_cases (i : Instr) (s : Block P) :
    (∃ st, s.FailsWith i st ∧ s.rule i = .next (s.respond st 0 0)) ∨
    (∃ t, t.rspStatus = 0 ∧ s.rule i = .next t) ∨
    (∃ size, i = .bulkWrite size ∧ s.rule i = .fault .shortData ∧ transferOf i s ≠ none) := by
  cases i with
  | init arr cap =>
    obtain ⟨rfl, hs⟩ | ⟨rfl, hcap, hs⟩ | ⟨-, -, hs⟩ := Block.initRule_cases arr (BitVec.ofNat P.cntW cap) s
    · exact .inl ⟨_, .nullStorage cap, hs⟩
    · exact .inl ⟨_, .invalidCapacity (by simp [hcap]), hs⟩
    · exact .inr (.inl ⟨_, rfl, hs⟩)
  | put b =>
    obtain ⟨hd, hs⟩ | ⟨hd, hfull, hs⟩ | ⟨-, -, hs⟩ := Block.putRule_cases b s
    · exact .inl ⟨_, .notInitialized hd nofun nofun nofun, hs⟩
    · exact .inl ⟨_, .putFull b hd hfull, hs⟩
    · exact .inr (.inl ⟨_, rfl, hs⟩)
  | get =>
    obtain ⟨hd, hs⟩ | ⟨hd, hempty, hs⟩ | ⟨-, -, hs⟩ := Block.getRule_cases s
    · exact .inl ⟨_, .notInitialized hd nofun nofun nofun, hs⟩
    · exact .inl ⟨_, .getEmpty hd hempty, hs⟩
    · exact .inr (.inl ⟨_, rfl, hs⟩)
  | peek k =>
    obtain ⟨hd, hs⟩ | ⟨hd, hout, hs⟩ | ⟨-, -, hs⟩ := Block.peekRule_cases (BitVec.ofNat P.cntW k) s
    · exact .inl ⟨_, .notInitialized hd nofun nofun nofun, hs⟩
    · exact .inl ⟨_, .peekOutOfRange hd hout, hs⟩
    · exact .inr (.inl ⟨_, rfl, hs⟩)
  | flush => exact .inr (.inl ⟨_, rfl, rfl⟩)
  | len => exact .inr (.inl ⟨_, rfl, rfl⟩)
  | bulkReadQ =>
    obtain ⟨hd, hs⟩ | ⟨hd, hempty, hs⟩ | ⟨-, -, hs⟩ := Block.bulkReadQRule_cases s
    · exact .inl ⟨_, .notInitialized hd nofun nofun nofun, hs⟩
    · exact .inl ⟨_, .bulkReadQEmpty hd hempty, hs⟩
    · exact .inr (.inl ⟨_, rfl, hs⟩)
  | bulkRead size =>
    obtain ⟨hd, hs⟩ | ⟨hd, hempty, hs⟩ | ⟨-, -, hs⟩ := Block.bulkReadRule_cases (BitVec.ofNat P.cntW size) s
    · exact .inl ⟨_, .notInitialized hd nofun nofun nofun, hs⟩
    · exact .inl ⟨_, .bulkReadEmpty size hd hempty, hs⟩
    · exact .inr (.inl ⟨_, rfl, hs⟩)
  | bulkWriteQ =>
    obtain ⟨hd, hs⟩ | ⟨hd, hfull, hs⟩ | ⟨-, -, hs⟩ := Block.bulkWriteQRule_cases s
    · exact .inl ⟨_, .notInitialized hd nofun nofun nofun, hs⟩
    · exact .inl ⟨_, .bulkWriteQFull hd hfull, hs⟩
    · exact .inr (.inl ⟨_, rfl, hs⟩)
  | bulkWrite size =>
    obtain ⟨hd, hs⟩ | ⟨hd, hfull, hs⟩ | ⟨hd, hroom, hshort, hs⟩ | ⟨-, -, -, hs⟩ :=
      Block.bulkWriteRule_cases (BitVec.ofNat P.cntW size) s
    · exact .inl ⟨_, .notInitialized hd nofun nofun nofun, hs⟩
    · exact .inl ⟨_, .bulkWriteFull size hd hfull, hs⟩
    · have hn : s.writeCount (BitVec.ofNat P.cntW size) ≠ 0 := by
        intro hzero
        simp [hzero] at hshort
      exact .inr (.inr ⟨size, rfl, hs, transferOf_bulkWrite_ne_none hd hroom hn⟩)
    · exact .inr (.inl ⟨_, rfl, hs⟩)

/-- A command that answers has failed by the table, or ended OK. -/
theorem Block.failsWith_or_ok (h : s.rule i = .next t) :
    (∃ st, s.FailsWith i st ∧ t = s.respond st 0 0) ∨ t.rspStatus = 0 := by
  obtain ⟨st, hf, hs⟩ | ⟨t', hok, hs⟩ | ⟨size, -, hs, -⟩ := Block.rule_cases i s <;> cases hs.symm.trans h
  · exact .inl ⟨st, hf, rfl⟩
  · exact .inr hok

theorem Status.code_inj {st st' : Status} (h : st.code = st'.code) : st = st' :=
  Option.some.inj (by rw [← Status.ofCode_code st, h, Status.ofCode_code])

/-- The response has a failure's code exactly where the table has that failure. -/
theorem Block.rspStatus_eq_code_iff (h : s.rule i = .next t) (hst : st ≠ .ok) :
    t.rspStatus = st.code ↔ s.FailsWith i st := by
  constructor
  · intro hcode
    obtain ⟨st', hf, rfl⟩ | hok := Block.failsWith_or_ok h
    · exact Status.code_inj hcode ▸ hf
    · exact absurd ((Status.code_eq_zero_iff st).mp (hcode.symm.trans hok)) hst
  · intro hf
    cases (Block.rule_of_failsWith hf).symm.trans h
    rfl

/-- A failure leaves everything but the response as it was (R88). -/
theorem Block.rule_failure_eq (h : s.rule i = .next t) (hne : t.rspStatus ≠ 0) :
    t = { s with rspValid := true, rspStatus := t.rspStatus, rspByte := 0, rspCount := 0 } := by
  obtain ⟨st, -, rfl⟩ | hok := Block.failsWith_or_ok h
  · rfl
  · exact absurd hok hne

/-- The acceptance edge fails as the command's rule does: a transfer starts with status OK (70_reset_and_hazards.md R103). -/
theorem rule_of_accept_failure (h : accept i s = .next t) (hne : t.rspStatus ≠ 0) : s.rule i = .next t := by
  obtain ⟨ph, n, -, ha⟩ | ⟨-, ha⟩ := accept_cases i s
  · cases ha.symm.trans h
    exact absurd rfl hne
  · exact ha.symm.trans h

theorem Block.rspStatus_ne_reserved (h : s.rule i = .next t) : t.rspStatus ≠ 7 := by
  obtain ⟨st, -, rfl⟩ | hok := Block.failsWith_or_ok h
  · exact st.code_ne_reserved
  · rw [hok]
    decide

/-! ### The free space of a block with the invariants -/

theorem count_eq_zero_iff_toNat {n : Count P} : n = 0 ↔ n.toNat = 0 := by
  simp [BitVec.toNat_eq]

/-- MASK + 1 does not wrap: it is at most CAP_MAX (00_scope.md R8; 10_state.md R29 (I2)). -/
theorem Inv.mask_add_one_toNat (hinv : Inv s) (hd : s.initDone = true) : (s.mask + 1).toNat = s.mask.toNat + 1 := by
  obtain ⟨k, hk, hcap⟩ := hinv.capacity hd
  have hlt : s.mask.toNat + 1 < 2 ^ P.cntW := by
    calc s.mask.toNat + 1 = 2 ^ k := hcap
      _ ≤ P.capMax := Nat.pow_le_pow_right (by decide) hk
      _ < 2 ^ P.cntW := P.capMax_lt
  have hone : BitVec.toNat (1 : Count P) = 1 := BitVec.toNat_one P.cntW_pos
  rw [BitVec.toNat_add_of_lt (by rw [hone]; exact hlt), hone]

/-- Buffered bytes and free space make up the capacity (43_bulk_transfer.md R78; 10_state.md R29 (I3)). -/
theorem Inv.space_add_len (hinv : Inv s) (hd : s.initDone = true) :
    s.space.toNat + s.len.toNat = s.mask.toNat + 1 := by
  have hcap : (s.mask + 1).toNat = s.mask.toNat + 1 := hinv.mask_add_one_toNat hd
  have hle : s.len.toNat ≤ s.mask.toNat + 1 := hinv.lenBound
  have hspace : s.space = s.mask + 1 - s.len := by
    show s.mask - s.len + 1 = s.mask + 1 - s.len
    ring
  rw [hspace, BitVec.toNat_sub_of_le (by rw [BitVec.le_def, hcap]; exact hle), hcap]
  omega

theorem Inv.space_eq_zero_iff (hinv : Inv s) (hd : s.initDone = true) :
    s.space = 0 ↔ s.len.toNat = s.mask.toNat + 1 := by
  have hsum : s.space.toNat + s.len.toNat = s.mask.toNat + 1 := hinv.space_add_len hd
  rw [count_eq_zero_iff_toNat]
  omega

/-- PUT's test for FULL is len() = C (42_single_element.md R67). -/
theorem Inv.not_len_le_mask_iff (hinv : Inv s) : ¬ s.len ≤ s.mask ↔ s.len.toNat = s.mask.toNat + 1 := by
  have hle : s.len.toNat ≤ s.mask.toNat + 1 := hinv.lenBound
  rw [BitVec.le_def]
  omega

/-! ### The rows of the table, as R87 states them -/

theorem Block.failsWith_notInitialized_iff : s.FailsWith i .notInitialized ↔
    s.initDone = false ∧ i ≠ .flush ∧ i ≠ .len ∧ ∀ arr cap, i ≠ .init arr cap := by
  constructor
  · rintro ⟨hd, hflush, hlen, hinit⟩
    exact ⟨hd, hflush, hlen, hinit⟩
  · rintro ⟨hd, hflush, hlen, hinit⟩
    exact .notInitialized hd hflush hlen hinit

theorem Block.failsWith_nullStorage_iff : s.FailsWith i .nullStorage ↔ ∃ cap, i = .init false cap := by
  constructor
  · rintro ⟨⟩
    exact ⟨_, rfl⟩
  · rintro ⟨cap, rfl⟩
    exact .nullStorage cap

theorem Block.failsWith_full_iff (hinv : Inv s) : s.FailsWith i .full ↔
    s.initDone = true ∧ s.len.toNat = s.mask.toNat + 1 ∧
      (i = .bulkWriteQ ∨ (∃ b, i = .put b) ∨ ∃ size, i = .bulkWrite size) := by
  constructor
  · intro hf
    cases hf with
    | putFull b hd hfull => exact ⟨hd, hinv.not_len_le_mask_iff.mp hfull, .inr (.inl ⟨b, rfl⟩)⟩
    | bulkWriteQFull hd hfull => exact ⟨hd, (hinv.space_eq_zero_iff hd).mp hfull, .inl rfl⟩
    | bulkWriteFull size hd hfull => exact ⟨hd, (hinv.space_eq_zero_iff hd).mp hfull, .inr (.inr ⟨size, rfl⟩)⟩
  · rintro ⟨hd, hfull, rfl | ⟨b, rfl⟩ | ⟨size, rfl⟩⟩
    · exact .bulkWriteQFull hd ((hinv.space_eq_zero_iff hd).mpr hfull)
    · exact .putFull b hd (hinv.not_len_le_mask_iff.mpr hfull)
    · exact .bulkWriteFull size hd ((hinv.space_eq_zero_iff hd).mpr hfull)

theorem Block.failsWith_empty_iff : s.FailsWith i .empty ↔
    s.initDone = true ∧ s.len.toNat = 0 ∧ (i = .get ∨ i = .bulkReadQ ∨ ∃ size, i = .bulkRead size) := by
  rw [← count_eq_zero_iff_toNat]
  constructor
  · intro hf
    cases hf with
    | getEmpty hd hempty => exact ⟨hd, hempty, .inl rfl⟩
    | bulkReadQEmpty hd hempty => exact ⟨hd, hempty, .inr (.inl rfl)⟩
    | bulkReadEmpty size hd hempty => exact ⟨hd, hempty, .inr (.inr ⟨size, rfl⟩)⟩
  · rintro ⟨hd, hempty, rfl | rfl | ⟨size, rfl⟩⟩
    · exact .getEmpty hd hempty
    · exact .bulkReadQEmpty hd hempty
    · exact .bulkReadEmpty size hd hempty

/-- An offset that fits the port is compared with len() as the number it is. -/
theorem Block.not_ofNat_lt_len_iff {k : Nat} (hk : k < 2 ^ P.cntW) :
    ¬ BitVec.ofNat P.cntW k < s.len ↔ s.len.toNat ≤ k := by
  rw [BitVec.lt_def, BitVec.toNat_ofNat, Nat.mod_eq_of_lt hk, Nat.not_lt]

theorem Block.failsWith_outOfRange_iff (hwf : i.wf P.cntW = true) : s.FailsWith i .outOfRange ↔
    s.initDone = true ∧ ∃ k, i = .peek k ∧ s.len.toNat ≤ k := by
  have hlt : i.arg < 2 ^ P.cntW := Instr.wf_iff_arg_lt.mp hwf
  constructor
  · intro hf
    cases hf with
    | peekOutOfRange hd hout => exact ⟨hd, _, rfl, (Block.not_ofNat_lt_len_iff hlt).mp hout⟩
  · rintro ⟨hd, k, rfl, hout⟩
    exact .peekOutOfRange hd ((Block.not_ofNat_lt_len_iff hlt).mpr hout)

/-- A capacity that fits the port is checked as the number it is (40_initialize.md R54). -/
theorem capOk_ofNat_iff {cap : Nat} (hcap : cap < 2 ^ P.cntW) :
    capOk P.awMax (BitVec.ofNat P.cntW cap) = true ↔ ∃ k, k ≤ P.awMax ∧ cap = 2 ^ k := by
  rw [capOk_iff_exists_two_pow, BitVec.toNat_ofNat, Nat.mod_eq_of_lt hcap]

theorem Block.failsWith_invalidCapacity_iff (hwf : i.wf P.cntW = true) : s.FailsWith i .invalidCapacity ↔
    ∃ cap, i = .init true cap ∧ ¬ ∃ k, k ≤ P.awMax ∧ cap = 2 ^ k := by
  have hlt : i.arg < 2 ^ P.cntW := Instr.wf_iff_arg_lt.mp hwf
  constructor
  · intro hf
    cases hf with
    | invalidCapacity hbad => exact ⟨_, rfl, mt (capOk_ofNat_iff hlt).mpr hbad⟩
  · rintro ⟨cap, rfl, hbad⟩
    exact .invalidCapacity (mt (capOk_ofNat_iff hlt).mp hbad)

/-! ### A clock edge (R91) -/

/-- The acceptance edge always answers: a BULK_WRITE with bytes to move starts a transfer there and does not ask for its data
(70_reset_and_hazards.md R103), so it is not stuck as its rule is without them. -/
theorem accept_answers (i : Instr) (s : Block P) : ∃ t, accept i s = .next t := by
  obtain ⟨ph, n, -, ha⟩ | ⟨hnone, ha⟩ := accept_cases i s
  · exact ⟨_, ha⟩
  · obtain ⟨st, -, hs⟩ | ⟨t, -, hs⟩ | ⟨size, -, -, htransfer⟩ := Block.rule_cases i s
    · exact ⟨_, ha.trans hs⟩
    · exact ⟨t, ha.trans hs⟩
    · exact absurd hnone htransfer

/-! ### Several instances (R96) -/

/-- A step of the k-th block replaces its state alone, and does nothing where there is none. -/
theorem stepInstance_cases {blocks after : List State} {k : Nat} (h : stepInstance k blocks = .next after) :
    after = blocks ∨ ∃ u, after = blocks.set k u := by
  unfold stepInstance at h
  split at h
  · cases h
    exact .inl rfl
  · split at h <;> cases h
    exact .inr ⟨_, rfl⟩

end Sys2Proof.Machine

namespace Sys2Proof.Proofs

open Sys2Proof.Machine

/-- Settles O27: a failure's response is the only thing its rule writes, and an acceptance edge that fails applies the rule. -/
theorem failuresWriteOnlyTheResponse : Obligations.FailuresWriteOnlyTheResponse := by
  rintro P s t i (h | h) hne
  · exact Block.rule_failure_eq (exec_eq_next_iff.mp h) hne
  · exact Block.rule_failure_eq (rule_of_accept_failure h hne) hne

/-- Settles O28: each status is recorded exactly where the table of failures has it, and each row of the table is the
condition R87 gives. -/
theorem statusConditions : Obligations.StatusConditions := by
  intro P s t i hinv hwf h
  have hrule : s.rule i = .next t := exec_eq_next_iff.mp h
  refine ⟨?_, ?_, ?_, ?_, ?_, ?_, fun hne => ?_, Block.rspStatus_ne_reserved hrule⟩
  · exact (Block.rspStatus_eq_code_iff (st := .notInitialized) hrule nofun).trans Block.failsWith_notInitialized_iff
  · exact (Block.rspStatus_eq_code_iff (st := .nullStorage) hrule nofun).trans Block.failsWith_nullStorage_iff
  · exact (Block.rspStatus_eq_code_iff (st := .full) hrule nofun).trans (Block.failsWith_full_iff hinv)
  · exact (Block.rspStatus_eq_code_iff (st := .empty) hrule nofun).trans Block.failsWith_empty_iff
  · exact (Block.rspStatus_eq_code_iff (st := .outOfRange) hrule nofun).trans (Block.failsWith_outOfRange_iff hwf)
  · exact (Block.rspStatus_eq_code_iff (st := .invalidCapacity) hrule nofun).trans
      (Block.failsWith_invalidCapacity_iff hwf)
  · rw [Block.rule_failure_eq hrule hne]
    exact ⟨rfl, rfl⟩

/-- Settles O56: a reset edge and a waiting edge answer by definition, an acceptance edge because the one fault of a rule
needs bytes to move, and then the edge starts a transfer. -/
theorem clockEdgeAlwaysAnswers : Obligations.ClockEdgeAlwaysAnswers := by
  intro P s p
  obtain ⟨-, he⟩ | ⟨-, -, -, he⟩ | ⟨-, -, he⟩ := clockEdge_cases p s
  · exact ⟨_, he⟩
  · obtain ⟨t, ht⟩ := accept_answers (decodeFields p.cmdOp p.cmdArr p.cmdArg p.cmdByte) s
    exact ⟨t, he.trans ht⟩
  · exact ⟨_, he⟩

/-- Settles O60: the list after a step of the k-th block is the old one with entry k set, if anything. -/
theorem instancesAreIndependent : Obligations.InstancesAreIndependent := by
  intro blocks after k j hjk h
  obtain rfl | ⟨u, rfl⟩ := stepInstance_cases h
  · exact ⟨rfl, rfl⟩
  · exact ⟨List.getElem?_set_ne hjk.symm, List.length_set⟩

end Sys2Proof.Proofs
end

section
/-! PROOFS. ResetAndHazards: one clock edge by its kind, the start of a transfer and the commands that start none, the beats and the waits, and the inputs each kind of edge reads (70_reset_and_hazards.md R100 to R106, R110, R113, R115). -/

namespace Sys2Proof.Machine

variable {P : Params} {i : Instr} {s t : Block P} {p q : PortIn P} {n : Count P} {ph : BitVec 2} {b : Byte}

/-! ### One clock edge, by its kind (R98, R100, R102) -/

theorem clockEdge_of_reset (hr : p.rst = true) : clockEdge p s = .next s.resetRegisters := by
  simpa [hr] using clockEdge_cases p s

theorem clockEdge_of_accept (hr : p.rst = false) (hv : p.cmdValid = true) (hp : s.phase = phaseIdle) :
    clockEdge p s = accept (decodeFields p.cmdOp p.cmdArr p.cmdArg p.cmdByte) s := by
  simpa [hr, hv, hp] using clockEdge_cases p s

theorem clockEdge_without_command (hr : p.rst = false) (hv : p.cmdValid = false) : clockEdge p s = .next (s.wait p) := by
  simpa [hr, hv] using clockEdge_cases p s

theorem clockEdge_in_transfer (hr : p.rst = false) (hp : s.phase ≠ phaseIdle) : clockEdge p s = .next (s.wait p) := by
  simpa [hr, hp] using clockEdge_cases p s

/-! ### The acceptance of a command (R102, R103) -/

theorem accept_of_transferOf (ht : transferOf i s = some (ph, n)) :
    accept i s = .next ((s.startTransfer ph n).respond .ok 0 n) := by
  simp [accept, ht]

theorem accept_of_no_transfer (ht : transferOf i s = none) : accept i s = s.rule i := by
  simp [accept, ht]

theorem transferOf_bulkRead {size : Nat} (hd : s.initDone = true) (hl : s.len ≠ 0)
    (hn : s.readCount (BitVec.ofNat P.cntW size) ≠ 0) :
    transferOf (.bulkRead size) s = some (phaseXferRd, s.readCount (BitVec.ofNat P.cntW size)) :=
  if_pos ⟨hd, hl, hn⟩

theorem transferOf_bulkWrite {size : Nat} (hd : s.initDone = true) (hl : s.space ≠ 0)
    (hn : s.writeCount (BitVec.ofNat P.cntW size) ≠ 0) :
    transferOf (.bulkWrite size) s = some (phaseXferWr, s.writeCount (BitVec.ofNat P.cntW size)) :=
  if_pos ⟨hd, hl, hn⟩

/-- Only BULK_READ and BULK_WRITE start a transfer. -/
theorem transferOf_eq_none (hread : ∀ size, i ≠ .bulkRead size) (hwrite : ∀ size, i ≠ .bulkWrite size) :
    transferOf i s = none := by
  rw [Option.eq_none_iff_forall_ne_some]
  rintro ⟨ph, n⟩ ht
  obtain ⟨size, hi, -⟩ | ⟨size, hi, -⟩ := transferOf_cases ht
  · exact hread size hi
  · exact hwrite size hi

/-- The two levels have the same n: where the acceptance edge starts a transfer of n bytes, n is above 0, and the command's
rule, if it has a step, ends OK with count n. -/
theorem rule_response_of_transferOf (ht : transferOf i s = some (ph, n)) (h : s.rule i = .next t) :
    n ≠ 0 ∧ t.rspStatus = 0 ∧ t.rspCount = n := by
  obtain ⟨size, rfl, -, rfl, hd, hl, hn⟩ | ⟨size, rfl, -, rfl, hd, hl, hn⟩ := transferOf_cases ht
  · cases (Block.bulkReadRule_of_nonempty hd hl).symm.trans h
    exact ⟨hn, rfl, rfl⟩
  · obtain ⟨hd', -⟩ | ⟨-, hl', -⟩ | ⟨-, -, -, hs⟩ | ⟨-, -, -, hs⟩ :=
      Block.bulkWriteRule_cases (BitVec.ofNat P.cntW size) s
    · simp [hd] at hd'
    · exact absurd hl' hl
    · cases hs.symm.trans h
    · cases hs.symm.trans h
      exact ⟨hn, rfl, rfl⟩

/-- A command whose rule fails or answers count 0 starts no transfer. -/
theorem transferOf_eq_none_of_rule (h : s.rule i = .next t) (hno : t.rspCount = 0 ∨ t.rspStatus ≠ 0) :
    transferOf i s = none := by
  rw [Option.eq_none_iff_forall_ne_some]
  rintro ⟨ph, n⟩ ht
  obtain ⟨hn, hok, hcount⟩ := rule_response_of_transferOf ht h
  obtain hzero | hfail := hno
  · exact hn (hcount ▸ hzero)
  · exact hfail hok

/-- A number of bytes within the capacity is a number of beats REMAIN can hold (10_state.md R26, R29 (I2)). -/
theorem Inv.toNat_remain_of_le_capacity (hinv : Inv s) (hd : s.initDone = true) (hn : n.toNat ≤ s.mask.toNat + 1) :
    (n.setWidth (P.awMax + 1) : BeatCount P).toNat = n.toNat := by
  obtain ⟨k, hk, hcap⟩ := hinv.capacity hd
  have hlt : n.toNat < 2 ^ (P.awMax + 1) := by
    calc n.toNat ≤ 2 ^ k := hcap ▸ hn
      _ ≤ P.capMax := Nat.pow_le_pow_right (by decide) hk
      _ < 2 ^ (P.awMax + 1) := P.capMax_lt_beats
  rw [BitVec.toNat_setWidth, Nat.mod_eq_of_lt hlt]

/-- Where the accepted command starts a transfer of n bytes within the capacity, the edge sets PHASE, REMAIN and the response,
and nothing else (R103). -/
theorem clockEdge_of_transferOf (hr : p.rst = false) (hv : p.cmdValid = true) (hp : s.phase = phaseIdle)
    (hdec : decodeFields p.cmdOp p.cmdArr p.cmdArg p.cmdByte = i) (ht : transferOf i s = some (ph, n)) (hinv : Inv s)
    (hd : s.initDone = true) (hn : n.toNat ≤ s.mask.toNat + 1) :
    ∃ r : BeatCount P, r.toNat = n.toNat ∧ clockEdge p s = .next { s with
      phase := ph, remain := r, rspValid := true, rspStatus := 0, rspByte := 0, rspCount := n } := by
  refine ⟨_, hinv.toNat_remain_of_le_capacity hd hn, ?_⟩
  rw [clockEdge_of_accept hr hv hp, hdec, accept_of_transferOf ht]
  rfl

/-- The operand of a decoded command is the number on cmd_arg, so the port does not cut it (30_encoding.md R45, R51). -/
theorem toNat_ofNat_decoded_arg (hdec : decodeFields p.cmdOp p.cmdArr p.cmdArg p.cmdByte = i) :
    (BitVec.ofNat P.cntW i.arg).toNat = i.arg := by
  have hlt : i.arg < 2 ^ P.cntW := Instr.wf_iff_arg_lt.mp (hdec ▸ decodeFields_wf ..)
  rw [BitVec.toNat_ofNat, Nat.mod_eq_of_lt hlt]

/-! ### PHASE at the transaction level -/

@[simp] theorem Block.writeRun_phase (s : Block P) (r : Count P) (bs : List Byte) : (s.writeRun r bs).phase = s.phase := by
  rw [Block.writeRun_eq]

/-- No rule writes PHASE: a command's rule is one atomic step (20_memory.md R38), and only the cycle level is ever within a
transfer. -/
theorem Block.rule_keeps_phase (h : s.rule i = .next t) : t.phase = s.phase := by
  cases i with
  | init arr cap =>
    obtain ⟨-, hs⟩ | ⟨-, -, hs⟩ | ⟨-, -, hs⟩ := Block.initRule_cases arr (BitVec.ofNat P.cntW cap) s
      <;> cases hs.symm.trans h <;> rfl
  | put b =>
    obtain ⟨-, hs⟩ | ⟨-, -, hs⟩ | ⟨-, -, hs⟩ := Block.putRule_cases b s <;> cases hs.symm.trans h <;> rfl
  | get =>
    obtain ⟨-, hs⟩ | ⟨-, -, hs⟩ | ⟨-, -, hs⟩ := Block.getRule_cases s <;> cases hs.symm.trans h <;> rfl
  | peek k =>
    obtain ⟨-, hs⟩ | ⟨-, -, hs⟩ | ⟨-, -, hs⟩ := Block.peekRule_cases (BitVec.ofNat P.cntW k) s
      <;> cases hs.symm.trans h <;> rfl
  | flush =>
    obtain ⟨-, hs⟩ | ⟨-, hs⟩ := Block.flushRule_cases s <;> cases hs.symm.trans h <;> rfl
  | len =>
    cases h
    rfl
  | bulkReadQ =>
    obtain ⟨-, hs⟩ | ⟨-, -, hs⟩ | ⟨-, -, hs⟩ := Block.bulkReadQRule_cases s <;> cases hs.symm.trans h <;> rfl
  | bulkRead size =>
    obtain ⟨-, hs⟩ | ⟨-, -, hs⟩ | ⟨-, -, hs⟩ := Block.bulkReadRule_cases (BitVec.ofNat P.cntW size) s
      <;> cases hs.symm.trans h <;> rfl
  | bulkWriteQ =>
    obtain ⟨-, hs⟩ | ⟨-, -, hs⟩ | ⟨-, -, hs⟩ := Block.bulkWriteQRule_cases s <;> cases hs.symm.trans h <;> rfl
  | bulkWrite size =>
    obtain ⟨-, hs⟩ | ⟨-, -, hs⟩ | ⟨-, -, -, hs⟩ | ⟨-, -, -, hs⟩ :=
      Block.bulkWriteRule_cases (BitVec.ofNat P.cntW size) s <;> cases hs.symm.trans h
    · rfl
    · rfl
    · simp

/-! ### The beats and the waits (R104, R105) -/

theorem Block.wait_of_write (hp : s.phase = phaseXferWr) (hw : p.wrValid = true) :
    s.wait p = s.endResponse.writeBeat p.wrByte :=
  if_pos ⟨hp, hw⟩

theorem Block.wait_of_read (hp : s.phase = phaseXferRd) (hw : p.rdReady = true) : s.wait p = s.endResponse.readBeat := by
  simp [Block.wait, hp, hw]

/-- Without the host's handshake for the phase, no beat happens. -/
theorem Block.wait_of_no_beat (hwrite : s.phase = phaseXferWr → p.wrValid = false)
    (hread : s.phase = phaseXferRd → p.rdReady = false) : s.wait p = s.endResponse := by
  obtain ⟨hp, hw, -⟩ | ⟨hp, hw, -⟩ | ⟨-, -, h⟩ := s.wait_cases p
  · simp [hwrite hp] at hw
  · simp [hread hp] at hw
  · exact h

/-- What a write beat writes: the cell at idx(WR_POS), WR_POS, REMAIN and PHASE. -/
theorem Block.writeBeat_eq (hp : s.phase = phaseXferWr) :
    s.writeBeat b = { s with
      store := Memory.write s.store (s.idx s.wrPos).toNat b, wrPos := s.wrPos + 1, remain := s.remain - 1,
      phase := if s.remain = 1 then phaseIdle else phaseXferWr } := by
  rw [← hp]
  rfl

/-- What a read beat writes: the host's record of the bytes taken, RD_POS, REMAIN and PHASE. -/
theorem Block.readBeat_eq (hp : s.phase = phaseXferRd) :
    s.readBeat = { s with
      rdStream := s.rdStream ++ [s.memRead (s.idx s.rdPos)], rdPos := s.rdPos + 1, remain := s.remain - 1,
      phase := if s.remain = 1 then phaseIdle else phaseXferRd } := by
  rw [← hp]
  rfl

/-- An edge that accepts nothing reads wr_valid only in a write transfer, wr_byte only at its beats, and rd_ready only in a
read transfer (R115). -/
theorem Block.wait_congr (hvalid : s.phase = phaseXferWr → p.wrValid = q.wrValid)
    (hbyte : s.phase = phaseXferWr → p.wrValid = true → p.wrByte = q.wrByte)
    (hready : s.phase = phaseXferRd → p.rdReady = q.rdReady) : s.wait p = s.wait q := by
  obtain ⟨hp, hv, h⟩ | ⟨hp, hv, h⟩ | ⟨hnw, hnr, h⟩ := s.wait_cases p
  · rw [h, Block.wait_of_write hp ((hvalid hp).symm.trans hv), hbyte hp hv]
  · rw [h, Block.wait_of_read hp ((hready hp).symm.trans hv)]
  · have hnoWrite : s.phase = phaseXferWr → q.wrValid = false := fun hp =>
      (hvalid hp).symm.trans (Bool.eq_false_of_not_eq_true fun hv => hnw ⟨hp, hv⟩)
    have hnoRead : s.phase = phaseXferRd → q.rdReady = false := fun hp =>
      (hready hp).symm.trans (Bool.eq_false_of_not_eq_true fun hv => hnr ⟨hp, hv⟩)
    rw [h, Block.wait_of_no_beat hnoWrite hnoRead]

/-! ### The output equations (R106) -/

theorem cmdReady_iff {rst : Bool} : cmdReady rst s = true ↔ rst = false ∧ s.phase = phaseIdle := by
  simp [cmdReady]

theorem wrReady_iff {rst : Bool} : wrReady rst s = true ↔ rst = false ∧ s.phase = phaseXferWr := by
  simp [wrReady]

theorem rdValid_iff {rst : Bool} : rdValid rst s = true ↔ rst = false ∧ s.phase = phaseXferRd := by
  simp [rdValid]

/-- In a read transfer the byte on rd_byte is the one at idx(RD_POS). -/
theorem outputs_rdByte (hp : s.phase = phaseXferRd) : (outputs false s).rdByte = s.memRead (s.idx s.rdPos) :=
  if_pos (rdValid_iff.mpr ⟨rfl, hp⟩)

end Sys2Proof.Machine

namespace Sys2Proof.Proofs

open Sys2Proof.Machine

/-- Settles O54: a reset edge reads no other input, an acceptance edge reads the command fields, and a waiting edge reads the
handshake and the byte of the transfer in progress. -/
theorem inputsSampledOnlyWhereTheyMatter : Obligations.InputsSampledOnlyWhereTheyMatter := by
  intro P s p q hrst hvalid hfields hwrValid hwrByte hrdReady
  obtain ⟨hr, he⟩ | ⟨hr, hv, hp, he⟩ | ⟨hr, hno, he⟩ := clockEdge_cases p s
  · rw [he, clockEdge_of_reset (hrst.symm.trans hr)]
  · obtain ⟨hop, harr, harg, hbyte⟩ := hfields hr hp hv
    rw [he, clockEdge_of_accept (hrst.symm.trans hr) ((hvalid hr hp).symm.trans hv) hp, hop, harr, harg, hbyte]
  · have hwait : s.wait p = s.wait q := Block.wait_congr (hwrValid hr) (hwrByte hr) (hrdReady hr)
    rw [he, hwait]
    by_cases hp : s.phase = phaseIdle
    · have hv : p.cmdValid = false := hno.resolve_right (not_not_intro hp)
      rw [clockEdge_without_command (hrst.symm.trans hr) ((hvalid hr hp).symm.trans hv)]
    · rw [clockEdge_in_transfer (hrst.symm.trans hr) hp]

/-- Settles O49: each output by its equation; with PHASE not IDLE cmd_valid is an input the clock edge does not read. -/
theorem outputEquations : Obligations.OutputEquations :=
  ⟨fun _ _ _ => ⟨cmdReady_iff, wrReady_iff, rdValid_iff, rfl, rfl, rfl, rfl, rfl⟩, fun P s p hp =>
    inputsSampledOnlyWhereTheyMatter P s p { p with cmdValid := false } rfl (fun _ hidle => absurd hidle hp)
      (fun _ hidle => absurd hidle hp) (fun _ _ => rfl) (fun _ _ _ => rfl) fun _ _ => rfl⟩

/-- Settles O50: the accepted command starts a transfer, whose n is the operand cut to the bytes (or the space) there are;
n is at most the capacity, so REMAIN holds it. -/
theorem acceptanceStartsTransfer : Obligations.AcceptanceStartsTransfer := by
  constructor
  · intro P s p size hr hv hp hdec hinv hd hl hsize
    have hcount : (s.readCount (BitVec.ofNat P.cntW size)).toNat = min size s.len.toNat :=
      (s.readCount_toNat _).trans (congrArg (min · _) (toNat_ofNat_decoded_arg hdec))
    have hn : s.readCount (BitVec.ofNat P.cntW size) ≠ 0 := by
      rw [Ne, count_eq_zero_iff_toNat] at hl ⊢
      omega
    have hbound : s.len.toNat ≤ s.mask.toNat + 1 := hinv.lenBound
    obtain ⟨r, hremain, he⟩ :=
      clockEdge_of_transferOf hr hv hp hdec (transferOf_bulkRead hd hl hn) hinv hd (by omega)
    exact ⟨_, r, hcount, hremain, he⟩
  · intro P s p size hr hv hp hdec hinv hd hl hsize
    have hcount : (s.writeCount (BitVec.ofNat P.cntW size)).toNat = min size s.space.toNat :=
      (s.writeCount_toNat _).trans (congrArg (min · _) (toNat_ofNat_decoded_arg hdec))
    have hn : s.writeCount (BitVec.ofNat P.cntW size) ≠ 0 := by
      rw [Ne, count_eq_zero_iff_toNat] at hl ⊢
      omega
    have hsum : s.space.toNat + s.len.toNat = s.mask.toNat + 1 := hinv.space_add_len hd
    obtain ⟨r, hremain, he⟩ :=
      clockEdge_of_transferOf hr hv hp hdec (transferOf_bulkWrite hd hl hn) hinv hd (by omega)
    exact ⟨_, r, hcount, hremain, he⟩

/-- Settles O51: a failure or a count of 0 at the transaction level means that no transfer starts, so the acceptance edge
applies the rule, and no rule writes PHASE. -/
theorem emptyTransferCompletesAtAcceptance : Obligations.EmptyTransferCompletesAtAcceptance := by
  intro P s t p i hr hv hp hdec h hno
  have hrule : s.rule i = .next t := exec_eq_next_iff.mp h
  have haccept : accept i s = s.rule i := accept_of_no_transfer (transferOf_eq_none_of_rule hrule hno)
  exact ⟨by rw [clockEdge_of_accept hr hv hp, hdec, haccept, hrule], (Block.rule_keeps_phase hrule).trans hp⟩

/-- Settles O11: a command other than BULK_READ and BULK_WRITE starts no transfer, so its acceptance edge is its rule. -/
theorem cycleAcceptRunsDecodedCommand : Obligations.CycleAcceptRunsDecodedCommand := by
  intro P s p hr hv hp hread hwrite
  rw [clockEdge_of_accept hr hv hp, accept_of_no_transfer (transferOf_eq_none hread hwrite), exec_mk]

/-- Settles O48: the reset edge leaves an idle, uninitialized block with equal counters, over which LEN answers 0 and PUT
NOT_INITIALIZED. -/
theorem resetAbandonsTransfer : Obligations.ResetAbandonsTransfer := by
  intro P s p b hr _
  have hlen : accept .len s.resetRegisters = .next (s.resetRegisters.respond .ok 0 s.resetRegisters.len) :=
    accept_of_no_transfer rfl
  have hput : accept (.put b) s.resetRegisters = .next (s.resetRegisters.respond .notInitialized 0 0) :=
    (accept_of_no_transfer rfl).trans (Block.putRule_of_uninitialized rfl)
  exact ⟨_, _, _, clockEdge_of_reset hr, rfl, rfl, hlen, rfl, lengthOf_self 0, hput, rfl⟩

/-- Settles O52: in a write transfer an edge without rst is a write beat or a wait; with the invariants REMAIN is above 0 and
fits the free space, so a cell is free. -/
theorem writeBeat : Obligations.WriteBeat := by
  refine ⟨fun P s p hr hp hw => ?_, fun P s p hr hp hw => ?_, fun P s hinv hp => ?_⟩
  · rw [clockEdge_in_transfer hr (by simp [hp]), Block.wait_of_write hp hw, Block.writeBeat_eq (s := s.endResponse) hp]
    rfl
  · rw [clockEdge_in_transfer hr (by simp [hp]), Block.wait_of_no_beat (fun _ => hw) (by simp [hp])]
    rfl
  · obtain ⟨hpos, hroom⟩ := hinv.writeRemain hp
    rw [BitVec.le_def]
    omega

/-- Settles O53: in a read transfer an edge without rst is a read beat, whose byte is the one on rd_byte, or a wait. -/
theorem readBeat : Obligations.ReadBeat := by
  refine ⟨fun P s p hr hp hw => ?_, fun P s p hr hp hw => ?_,
    fun P s hp => ⟨rdValid_iff.mpr ⟨rfl, hp⟩, outputs_rdByte hp⟩⟩
  · rw [clockEdge_in_transfer hr (by simp [hp]), Block.wait_of_read hp hw, Block.readBeat_eq (s := s.endResponse) hp,
      outputs_rdByte hp]
    rfl
  · rw [clockEdge_in_transfer hr (by simp [hp]), Block.wait_of_no_beat (by simp [hp]) (fun _ => hw)]
    rfl

end Sys2Proof.Proofs
end

section
/-! PROOFS. Window: the live window of the ring, the cells idx(RD_POS + i) with i < len(), and what the two moves of the counters do to it and to the abstract queue: a byte put at idx(WR_POS), and bytes dropped at RD_POS (20_memory.md R33; 10_state.md R29; 42_single_element.md R63, R64; 43_bulk_transfer.md R75, R77). -/

namespace Sys2Proof.Machine

variable {P : Params} {s : Block P} {b : Byte} {bs : List Byte} {n : Nat}

/-! ### Positions and their indices (R33) -/

/-- A capacity 2^k divides the counter's range, so reduction modulo the capacity does not see the counter wrap. -/
theorem two_pow_dvd_of_mask {w k : Nat} {mask : BitVec w} (hmask : mask.toNat + 1 = 2 ^ k) : 2 ^ k ∣ 2 ^ w := by
  have hle : 2 ^ k ≤ 2 ^ w := hmask ▸ mask.isLt
  exact Nat.pow_dvd_pow 2 ((Nat.pow_le_pow_iff_right (by decide)).mp hle)

theorem indexer_add_ofNat_toNat {w a k : Nat} {mask : BitVec w} (p : BitVec w) (j : Nat) (hka : k ≤ a)
    (hmask : mask.toNat + 1 = 2 ^ k) : (indexer a mask (p + BitVec.ofNat w j)).toNat = (p.toNat + j) % 2 ^ k := by
  have hdvd : 2 ^ k ∣ 2 ^ w := two_pow_dvd_of_mask hmask
  rw [indexer_toNat_of_two_pow _ hka hmask, BitVec.toNat_add, BitVec.toNat_ofNat, Nat.mod_mod_of_dvd _ hdvd,
    Nat.add_mod, Nat.mod_mod_of_dvd _ hdvd, ← Nat.add_mod]

/-- The counters of a block say how many bytes it buffers: WR_POS is RD_POS + len() (41_length.md R60). -/
theorem Block.rdPos_add_len (s : Block P) : s.rdPos + s.len = s.wrPos := by
  rw [Block.len, lengthOf]
  ring

theorem Block.rdPos_add_ofNat_len (s : Block P) : s.rdPos + BitVec.ofNat P.cntW s.len.toNat = s.wrPos := by
  rw [BitVec.ofNat_toNat, BitVec.setWidth_eq, s.rdPos_add_len]

theorem add_ofNat_add {w : Nat} (p : BitVec w) (i j : Nat) :
    p + BitVec.ofNat w i + BitVec.ofNat w j = p + BitVec.ofNat w (i + j) := by
  rw [BitVec.add_assoc, BitVec.ofNat_add]

/-- A number of at most len() is the same number on a counter. -/
theorem Block.ofNat_toNat_of_le_len (h : n ≤ s.len.toNat) : (BitVec.ofNat P.cntW n).toNat = n := by
  have hlt : s.len.toNat < 2 ^ P.cntW := s.len.isLt
  rw [BitVec.toNat_ofNat, Nat.mod_eq_of_lt (by omega)]

/-! ### The ring -/

/-- What the counters and MASK are to each other, initialized or not: (I2) and (I3) of R29. -/
structure Block.Ring (s : Block P) : Prop where
  /-- C = MASK + 1 is a power of two, at most CAP_MAX; it is 1 on an uninitialized block. -/
  capacity : ∃ k, k ≤ P.awMax ∧ s.mask.toNat + 1 = 2 ^ k
  /-- len() is at most C. -/
  lenBound : s.len.toNat ≤ s.mask.toNat + 1

/-- A ring with its storage: the part of the invariants that does not speak of PHASE, REMAIN or the response. -/
structure Block.Live (s : Block P) : Prop extends Block.Ring s where
  storeWf : Memory.wf P.capMax s.store = true
  liveWritten : s.LiveWritten

theorem Inv.live (hinv : Inv s) : s.Live where
  capacity := by
    cases hd : s.initDone with
    | true => exact hinv.capacity hd
    | false =>
      obtain ⟨-, -, hmask, -⟩ := hinv.uninitialized hd
      exact ⟨0, Nat.zero_le _, by simp [hmask]⟩
  lenBound := hinv.lenBound
  storeWf := hinv.storeWf
  liveWritten := hinv.liveWritten

/-- C is a count distinct from 0 (00_scope.md R8). -/
theorem Block.Ring.capacity_lt (hring : s.Ring) : s.mask.toNat + 1 < 2 ^ P.cntW := by
  obtain ⟨k, hk, hcap⟩ := hring.capacity
  calc s.mask.toNat + 1 = 2 ^ k := hcap
    _ ≤ P.capMax := Nat.pow_le_pow_right (by decide) hk
    _ < 2 ^ P.cntW := P.capMax_lt

/-- Two positions less than C apart have different indices. -/
theorem Block.Ring.idx_ne (hring : s.Ring) (p : Count P) {i j : Nat} (hij : i < j) (hj : j ≤ s.mask.toNat) :
    s.idx (p + BitVec.ofNat P.cntW i) ≠ s.idx (p + BitVec.ofNat P.cntW j) := by
  obtain ⟨k, hk, hcap⟩ := hring.capacity
  intro heq
  have hmod : p.toNat + i ≡ p.toNat + j [MOD 2 ^ k] := by
    rw [Nat.ModEq, ← indexer_add_ofNat_toNat p i hk hcap, ← indexer_add_ofNat_toNat p j hk hcap]
    exact congrArg BitVec.toNat heq
  have heq' : i = j := (Nat.ModEq.add_left_cancel' _ hmod).eq_of_lt_of_lt (by omega) (by omega)
  omega

/-- While there is room, idx(WR_POS) is outside the live window. -/
theorem Block.Ring.idx_ne_wrPos (hring : s.Ring) (hroom : s.len.toNat ≤ s.mask.toNat) {i : Nat} (hi : i < s.len.toNat) :
    s.idx (s.rdPos + BitVec.ofNat P.cntW i) ≠ s.idx s.wrPos := by
  rw [← s.rdPos_add_ofNat_len]
  exact hring.idx_ne s.rdPos hi hroom

/-! ### Runs of reads, in two parts -/

theorem Block.readRun_add (s : Block P) (p : Count P) (m n : Nat) :
    s.readRun p (m + n) = s.readRun p m ++ s.readRun (p + BitVec.ofNat P.cntW m) n := by
  simp only [Block.readRun, List.range_add, List.map_append, List.map_map, add_ofNat_add]
  rfl

theorem Block.queue_length (s : Block P) : s.queue.length = s.len.toNat :=
  s.readRun_length _ _

/-- The first n bytes of the queue are the n cells from RD_POS on. -/
theorem Block.queue_take (h : n ≤ s.len.toNat) : s.queue.take n = s.readRun s.rdPos n := by
  obtain ⟨m, hm⟩ := Nat.exists_eq_add_of_le h
  rw [Block.queue, hm, Block.readRun_add, List.take_left' (s.readRun_length _ _)]

theorem Block.queue_drop (h : n ≤ s.len.toNat) :
    s.queue.drop n = s.readRun (s.rdPos + BitVec.ofNat P.cntW n) (s.len.toNat - n) := by
  obtain ⟨m, hm⟩ := Nat.exists_eq_add_of_le h
  rw [Block.queue, hm, Block.readRun_add, List.drop_left' (s.readRun_length _ _), Nat.add_sub_cancel_left]

/-! ### Dropping bytes at RD_POS -/

theorem Block.len_setRdPos_toNat (h : n ≤ s.len.toNat) :
    (s.setRdPos (s.rdPos + BitVec.ofNat P.cntW n)).len.toNat = s.len.toNat - n := by
  have hlen : (s.setRdPos (s.rdPos + BitVec.ofNat P.cntW n)).len = s.len - BitVec.ofNat P.cntW n := by
    simp only [Block.len, lengthOf, Block.setRdPos_wrPos, Block.setRdPos_rdPos]
    ring
  have hn : (BitVec.ofNat P.cntW n).toNat = n := Block.ofNat_toNat_of_le_len h
  rw [hlen, BitVec.toNat_sub_of_le (by rw [BitVec.le_def, hn]; exact h), hn]

theorem Block.queue_setRdPos (h : n ≤ s.len.toNat) :
    (s.setRdPos (s.rdPos + BitVec.ofNat P.cntW n)).queue = s.queue.drop n := by
  rw [Block.queue, Block.len_setRdPos_toNat h, Block.queue_drop h]
  rfl

theorem Block.Ring.setRdPos (hring : s.Ring) (h : n ≤ s.len.toNat) :
    (s.setRdPos (s.rdPos + BitVec.ofNat P.cntW n)).Ring where
  capacity := hring.capacity
  lenBound := by
    have hle : s.len.toNat ≤ s.mask.toNat + 1 := hring.lenBound
    rw [Block.len_setRdPos_toNat h, Block.setRdPos_mask]
    omega

/-- What is left of the window was in it before. -/
theorem Block.Live.setRdPos (hlive : s.Live) (h : n ≤ s.len.toNat) :
    (s.setRdPos (s.rdPos + BitVec.ofNat P.cntW n)).Live where
  toRing := hlive.toRing.setRdPos h
  storeWf := hlive.storeWf
  liveWritten := by
    intro i hi
    rw [Block.len_setRdPos_toNat h] at hi
    simpa [add_ofNat_add] using hlive.liveWritten (n + i) (by omega)

/-- FLUSH drops the whole window (R66). -/
theorem Block.Live.setRdPos_wrPos (hlive : s.Live) : (s.setRdPos s.wrPos).Live := by
  rw [← s.rdPos_add_ofNat_len]
  exact hlive.setRdPos le_rfl

theorem Block.len_setRdPos_wrPos (s : Block P) : (s.setRdPos s.wrPos).len = 0 :=
  lengthOf_self s.wrPos

/-- The bytes at RD_POS go out on the rd stream and RD_POS moves past them (43_bulk_transfer.md R75). -/
def Block.takeBytes (s : Block P) (n : Nat) : Block P :=
  (s.deliver (s.readRun s.rdPos n)).setRdPos (s.rdPos + BitVec.ofNat P.cntW n)

@[simp] theorem Block.takeBytes_zero (s : Block P) : s.takeBytes 0 = s := by
  simp [Block.takeBytes, Block.deliver, Block.setRdPos]

theorem Block.takeBytes_one (s : Block P) :
    s.takeBytes 1 = (s.deliver [s.memRead (s.idx s.rdPos)]).setRdPos (s.rdPos + 1) := by
  rw [Block.takeBytes, Block.readRun_succ, Block.readRun_zero]
  rfl

/-- Taking n + 1 bytes is taking one and then the n behind it. -/
theorem Block.takeBytes_succ (s : Block P) (n : Nat) : s.takeBytes (n + 1) = (s.takeBytes 1).takeBytes n := by
  have hrun : (s.takeBytes 1).readRun (s.rdPos + 1) n = s.readRun (s.rdPos + 1) n := Block.readRun_congr rfl rfl _ _
  rw [Block.takeBytes_one, Block.takeBytes, ← add_one_add_ofNat, Block.readRun_succ, ← hrun, Block.takeBytes_one]
  simp [Block.takeBytes, Block.deliver, Block.setRdPos]

/-! ### Putting bytes at WR_POS -/

theorem Block.len_putByte (s : Block P) (b : Byte) : (s.putByte b).len = s.len + 1 := by
  simp only [Block.len, lengthOf, Block.putByte_wrPos, Block.putByte_rdPos]
  ring

theorem Block.Ring.len_putByte_toNat (hring : s.Ring) (hroom : s.len.toNat ≤ s.mask.toNat) :
    (s.putByte b).len.toNat = s.len.toNat + 1 := by
  have hlt : s.mask.toNat + 1 < 2 ^ P.cntW := hring.capacity_lt
  have hone : BitVec.toNat (1 : Count P) = 1 := BitVec.toNat_one P.cntW_pos
  rw [Block.len_putByte, BitVec.toNat_add_of_lt (by rw [hone]; omega), hone]

theorem Block.memRead_putByte (s : Block P) (b : Byte) (j : Index P) :
    (s.putByte b).memRead j = if j = s.idx s.wrPos then b else s.memRead j :=
  s.memRead_memWrite (s.idx s.wrPos) j b

/-- A byte put while there is room goes to the end of the queue (R63). -/
theorem Block.Ring.queue_putByte (hring : s.Ring) (hroom : s.len.toNat ≤ s.mask.toNat) :
    (s.putByte b).queue = s.queue ++ [b] := by
  have hkept : (s.putByte b).readRun s.rdPos s.len.toNat = s.queue := by
    refine List.map_congr_left fun i hi => ?_
    have hne : s.idx (s.rdPos + BitVec.ofNat P.cntW i) ≠ s.idx s.wrPos :=
      hring.idx_ne_wrPos hroom (List.mem_range.mp hi)
    rw [Block.putByte_idx, Block.memRead_putByte, if_neg hne]
  have hlast : (s.putByte b).readRun s.wrPos 1 = [b] := by
    rw [Block.readRun_succ, Block.memRead_putByte, Block.putByte_idx, if_pos rfl, Block.readRun_zero]
  rw [Block.queue, hring.len_putByte_toNat hroom, Block.putByte_rdPos, Block.readRun_add, hkept,
    s.rdPos_add_ofNat_len, hlast]

theorem Block.Ring.putByte (hring : s.Ring) (hroom : s.len.toNat ≤ s.mask.toNat) : (s.putByte b).Ring where
  capacity := hring.capacity
  lenBound := by
    rw [hring.len_putByte_toNat hroom, Block.putByte_mask]
    omega

theorem Block.Live.putByte (hlive : s.Live) (hroom : s.len.toNat ≤ s.mask.toNat) : (s.putByte b).Live where
  toRing := hlive.toRing.putByte hroom
  storeWf := Block.memWrite_wf _ b hlive.storeWf
  liveWritten := by
    intro i hi
    rw [hlive.toRing.len_putByte_toNat hroom] at hi
    rw [Block.putByte_store, Block.putByte_idx, Block.putByte_rdPos]
    obtain hi | rfl : i < s.len.toNat ∨ i = s.len.toNat := by omega
    · have hne : s.idx (s.rdPos + BitVec.ofNat P.cntW i) ≠ s.idx s.wrPos := hlive.toRing.idx_ne_wrPos hroom hi
      rw [Memory.read_write_of_ne _ _ fun h => hne (BitVec.eq_of_toNat_eq h)]
      exact hlive.liveWritten i hi
    · rw [s.rdPos_add_ofNat_len, Memory.read_write_self]
      rfl

/-- Bytes put one after another, the counter with them (R77). -/
def Block.putBytes (s : Block P) (bs : List Byte) : Block P :=
  bs.foldl Block.putByte s

@[simp] theorem Block.putBytes_nil (s : Block P) : s.putBytes [] = s := rfl

theorem Block.putBytes_cons (s : Block P) (b : Byte) (bs : List Byte) :
    s.putBytes (b :: bs) = (s.putByte b).putBytes bs := rfl

/-- Putting bytes changes STORE and WR_POS and nothing else. -/
theorem Block.putBytes_eq (s : Block P) (bs : List Byte) :
    s.putBytes bs =
      { s with store := (s.putBytes bs).store, wrPos := s.wrPos + BitVec.ofNat P.cntW bs.length } := by
  induction bs generalizing s with
  | nil => simp
  | cons b bs ih =>
    rw [Block.putBytes_cons, ih, List.length_cons, ← add_one_add_ofNat]
    rfl

@[simp] theorem Block.putBytes_initDone (s : Block P) (bs : List Byte) : (s.putBytes bs).initDone = s.initDone := by
  rw [Block.putBytes_eq]

@[simp] theorem Block.putBytes_mask (s : Block P) (bs : List Byte) : (s.putBytes bs).mask = s.mask := by
  rw [Block.putBytes_eq]

@[simp] theorem Block.putBytes_rdPos (s : Block P) (bs : List Byte) : (s.putBytes bs).rdPos = s.rdPos := by
  rw [Block.putBytes_eq]

@[simp] theorem Block.putBytes_phase (s : Block P) (bs : List Byte) : (s.putBytes bs).phase = s.phase := by
  rw [Block.putBytes_eq]

@[simp] theorem Block.putBytes_remain (s : Block P) (bs : List Byte) : (s.putBytes bs).remain = s.remain := by
  rw [Block.putBytes_eq]

@[simp] theorem Block.putBytes_host (s : Block P) (bs : List Byte) : (s.putBytes bs).host = s.host := by
  rw [Block.putBytes_eq]

@[simp] theorem Block.putBytes_wrData (s : Block P) (bs : List Byte) : (s.putBytes bs).wrData = s.wrData := by
  rw [Block.putBytes_eq]

theorem Block.writeRun_of_setWrPos (s : Block P) (p q : Count P) (bs : List Byte) :
    (s.setWrPos q).writeRun p bs = (s.writeRun p bs).setWrPos q := by
  induction bs generalizing s p with
  | nil => rfl
  | cons b bs ih => exact ih (s.memWrite (s.idx p) b) (p + 1)

/-- The writes of a BULK_WRITE and its move of WR_POS are the put path once per byte (R77). -/
theorem Block.writeRun_setWrPos (s : Block P) (bs : List Byte) :
    (s.writeRun s.wrPos bs).setWrPos (s.wrPos + BitVec.ofNat P.cntW bs.length) = s.putBytes bs := by
  induction bs generalizing s with
  | nil => simp [Block.setWrPos]
  | cons b bs ih =>
    rw [Block.putBytes_cons, ← ih (s.putByte b), Block.putByte, Block.writeRun_of_setWrPos, Block.writeRun_cons,
      List.length_cons, ← add_one_add_ofNat]
    rfl

theorem Block.Ring.queue_putBytes (hring : s.Ring) (hroom : s.len.toNat + bs.length ≤ s.mask.toNat + 1) :
    (s.putBytes bs).queue = s.queue ++ bs := by
  induction bs generalizing s with
  | nil => simp
  | cons b bs ih =>
    rw [List.length_cons] at hroom
    have hlen : (s.putByte b).len.toNat = s.len.toNat + 1 := hring.len_putByte_toNat (by omega)
    rw [Block.putBytes_cons, ih (hring.putByte (by omega)) (by rw [hlen, Block.putByte_mask]; omega),
      hring.queue_putByte (by omega), List.append_assoc, List.singleton_append]

theorem Block.Ring.len_putBytes_toNat (hring : s.Ring) (hroom : s.len.toNat + bs.length ≤ s.mask.toNat + 1) :
    (s.putBytes bs).len.toNat = s.len.toNat + bs.length := by
  rw [← Block.queue_length, hring.queue_putBytes hroom, List.length_append, Block.queue_length]

theorem Block.Live.putBytes (hlive : s.Live) (hroom : s.len.toNat + bs.length ≤ s.mask.toNat + 1) :
    (s.putBytes bs).Live := by
  induction bs generalizing s with
  | nil => exact hlive
  | cons b bs ih =>
    rw [List.length_cons] at hroom
    have hlen : (s.putByte b).len.toNat = s.len.toNat + 1 := hlive.toRing.len_putByte_toNat (by omega)
    exact ih (hlive.putByte (by omega)) (by rw [hlen, Block.putByte_mask]; omega)

end Sys2Proof.Machine
end

section
/-! PROOFS. Commands: the ways a command ends OK, one inversion of every rule, and what follows of each: the abstract queue (10_state.md R29; files 40 to 43), len() (41_length.md R62), the cells written and read (10_state.md R29, R30; 43_bulk_transfer.md R77, R82), the size queries, FLUSH twice and the zero requests (42_single_element.md, 43_bulk_transfer.md), and the port's cut of an operand (30_encoding.md R45). -/

namespace Sys2Proof.Machine

variable {P : Params} {i : Instr} {s t : Block P} {b : Byte} {bs : List Byte} {n : Nat}

/-! ### The commands that end OK -/

/-- The answers of the commands that end with status OK, each with the conditions under which it does. -/
inductive Block.Succeeds (s : Block P) : Instr → Block P → Prop where
  | init {cap : Nat} : capOk P.awMax (BitVec.ofNat P.cntW cap) = true →
      Succeeds s (.init true cap) ((s.bindCapacity (BitVec.ofNat P.cntW cap)).respond .ok 0 0)
  | put (b : Byte) : s.initDone = true → s.len.toNat ≤ s.mask.toNat →
      Succeeds s (.put b) ((s.putByte b).respond .ok 0 0)
  | get : s.initDone = true → s.len ≠ 0 →
      Succeeds s .get ((s.setRdPos (s.rdPos + 1)).respond .ok (s.memRead (s.idx s.rdPos)) 0)
  | peek {k : Nat} : s.initDone = true → BitVec.ofNat P.cntW k < s.len →
      Succeeds s (.peek k) (s.respond .ok (s.memRead (s.idx (s.rdPos + BitVec.ofNat P.cntW k))) 0)
  | flushUninitialized : s.initDone = false → Succeeds s .flush (s.respond .ok 0 0)
  | flush : s.initDone = true → Succeeds s .flush ((s.setRdPos s.wrPos).respond .ok 0 0)
  | len : Succeeds s .len (s.respond .ok 0 s.len)
  | bulkReadQ : s.initDone = true → Succeeds s .bulkReadQ (s.respond .ok 0 s.len)
  | bulkRead {size : Nat} {n : Count P} : s.initDone = true → n = s.readCount (BitVec.ofNat P.cntW size) →
      Succeeds s (.bulkRead size) ((s.takeBytes n.toNat).respondTransfer n)
  | bulkWriteQ : s.initDone = true → Succeeds s .bulkWriteQ (s.respond .ok 0 s.space)
  | bulkWrite {size : Nat} {n : Count P} : s.initDone = true → n = s.writeCount (BitVec.ofNat P.cntW size) →
      n.toNat ≤ s.wrData.length →
      Succeeds s (.bulkWrite size) (((s.putBytes (s.wrData.take n.toNat)).consume n.toNat).respondTransfer n)

/-- BULK_READ takes its n bytes one position after another (R75). -/
theorem Block.bulkReadRule_eq_takeBytes {size : Count P} (hd : s.initDone = true) (hne : s.len ≠ 0) :
    s.bulkReadRule size =
      .next ((s.takeBytes (s.readCount size).toNat).respondTransfer (s.readCount size)) := by
  rw [Block.bulkReadRule_of_nonempty hd hne, Block.takeBytes, BitVec.ofNat_toNat, BitVec.setWidth_eq]

/-- BULK_WRITE puts its n bytes one after another (R77). -/
theorem Block.bulkWriteRule_eq_putBytes {size : Count P} (hd : s.initDone = true) (hroom : s.space ≠ 0)
    (hdata : (s.writeCount size).toNat ≤ s.wrData.length) :
    s.bulkWriteRule size = .next (((s.putBytes (s.wrData.take (s.writeCount size).toNat)).consume
      (s.writeCount size).toNat).respondTransfer (s.writeCount size)) := by
  obtain ⟨hd', -⟩ | ⟨-, hfull, -⟩ | ⟨-, -, hshort, -⟩ | ⟨-, -, -, hs⟩ := s.bulkWriteRule_cases size
  · simp [hd] at hd'
  · exact absurd hfull hroom
  · omega
  · rw [hs, ← Block.writeRun_setWrPos, List.length_take_of_le hdata, BitVec.ofNat_toNat, BitVec.setWidth_eq]
    rfl

theorem Block.FailsWith.ne_ok {st : Status} (hf : s.FailsWith i st) : st ≠ .ok := by
  cases hf <;> nofun

/-- A command that answers with status OK is in the table of failures nowhere, so its answer is the rule's last branch. -/
theorem Block.succeeds_of_rule (h : s.rule i = .next t) (hok : t.rspStatus = 0) : s.Succeeds i t := by
  have hno : ∀ {st}, ¬ s.FailsWith i st := fun hf =>
    hf.ne_ok ((Status.code_eq_zero_iff _).mp (((Block.rspStatus_eq_code_iff h hf.ne_ok).mpr hf).symm.trans hok))
  have hinit : i ≠ .flush → i ≠ .len → (∀ arr cap, i ≠ .init arr cap) → s.initDone = true := by
    intro hflush hlen hnot
    by_contra hd
    exact hno (.notInitialized (Bool.eq_false_of_not_eq_true hd) hflush hlen hnot)
  cases i with
  | init arr cap =>
    cases arr with
    | false => exact absurd (.nullStorage cap) hno
    | true =>
      have hcap : capOk P.awMax (BitVec.ofNat P.cntW cap) = true := of_not_not fun hbad => hno (.invalidCapacity hbad)
      cases (Block.initRule_of_capOk s hcap).symm.trans h
      exact .init hcap
  | put b =>
    have hd : s.initDone = true := hinit nofun nofun nofun
    have hroom : s.len ≤ s.mask := of_not_not fun hfull => hno (.putFull b hd hfull)
    cases (Block.putRule_of_room hd hroom).symm.trans h
    exact .put b hd (BitVec.le_def.mp hroom)
  | get =>
    have hd : s.initDone = true := hinit nofun nofun nofun
    have hne : s.len ≠ 0 := fun hempty => hno (.getEmpty hd hempty)
    cases (Block.getRule_of_nonempty hd hne).symm.trans h
    exact .get hd hne
  | peek k =>
    have hd : s.initDone = true := hinit nofun nofun nofun
    have hin : BitVec.ofNat P.cntW k < s.len := of_not_not fun hout => hno (.peekOutOfRange hd hout)
    cases (Block.peekRule_of_inRange hd hin).symm.trans h
    exact .peek hd hin
  | flush =>
    obtain ⟨hd, hs⟩ | ⟨hd, hs⟩ := s.flushRule_cases <;> cases hs.symm.trans h
    · exact .flushUninitialized hd
    · exact .flush hd
  | len =>
    cases h
    exact .len
  | bulkReadQ =>
    have hd : s.initDone = true := hinit nofun nofun nofun
    have hne : s.len ≠ 0 := fun hempty => hno (.bulkReadQEmpty hd hempty)
    cases (Block.bulkReadQRule_of_nonempty hd hne).symm.trans h
    exact .bulkReadQ hd
  | bulkRead size =>
    have hd : s.initDone = true := hinit nofun nofun nofun
    have hne : s.len ≠ 0 := fun hempty => hno (.bulkReadEmpty size hd hempty)
    cases (Block.bulkReadRule_eq_takeBytes hd hne).symm.trans h
    exact .bulkRead hd rfl
  | bulkWriteQ =>
    have hd : s.initDone = true := hinit nofun nofun nofun
    have hroom : s.space ≠ 0 := fun hfull => hno (.bulkWriteQFull hd hfull)
    cases (Block.bulkWriteQRule_of_room hd hroom).symm.trans h
    exact .bulkWriteQ hd
  | bulkWrite size =>
    have hd : s.initDone = true := hinit nofun nofun nofun
    have hroom : s.space ≠ 0 := fun hfull => hno (.bulkWriteFull size hd hfull)
    have hdata : (s.writeCount (BitVec.ofNat P.cntW size)).toNat ≤ s.wrData.length := by
      by_contra hshort
      cases (Block.bulkWriteRule_of_shortData hd hroom (Nat.not_le.mp hshort)).symm.trans h
    cases (Block.bulkWriteRule_eq_putBytes hd hroom hdata).symm.trans h
    exact .bulkWrite hd rfl hdata

/-- A command that answers has failed by the table, or succeeded. -/
theorem Block.failsWith_or_succeeds (h : s.rule i = .next t) :
    (∃ st, s.FailsWith i st ∧ t = s.respond st 0 0) ∨ s.Succeeds i t :=
  (Block.failsWith_or_ok h).imp_right (Block.succeeds_of_rule h)

/-! ### What the five registers of "state unchanged" determine (40_initialize.md) -/

theorem SameArch.len_eq (h : SameArch s t) : s.len = t.len := by
  rw [Block.len, h.rdPos, h.wrPos, Block.len]

theorem SameArch.queue_eq (h : SameArch s t) : s.queue = t.queue := by
  rw [Block.queue, h.len_eq, h.rdPos, Block.readRun_congr h.mask h.store, Block.queue]

theorem Block.Ring.congr (hring : s.Ring) (h : SameArch s t) : t.Ring :=
  ⟨h.mask ▸ hring.capacity, h.mask ▸ h.len_eq ▸ hring.lenBound⟩

theorem Block.Live.congr (hlive : s.Live) (h : SameArch s t) : t.Live where
  toRing := hlive.toRing.congr h
  storeWf := h.store ▸ hlive.storeWf
  liveWritten := by
    intro i hi
    rw [← h.len_eq] at hi
    simpa [Block.idx, h.mask, h.rdPos, h.store] using hlive.liveWritten i hi

@[simp] theorem Block.consume_queue (s : Block P) (k : Nat) : (s.consume k).queue = s.queue := rfl

@[simp] theorem Block.respondTransfer_queue (s : Block P) (m : Count P) : (s.respondTransfer m).queue = s.queue := rfl

/-! ### The queue at its ends, and the amounts of the transfers -/

theorem Block.len_pos (hne : s.len ≠ 0) : 0 < s.len.toNat :=
  Nat.pos_of_ne_zero (mt count_eq_zero_iff_toNat.mpr hne)

theorem Block.queue_of_empty (hempty : s.len = 0) : s.queue = [] :=
  List.eq_nil_of_length_eq_zero ((s.queue_length).trans (count_eq_zero_iff_toNat.mp hempty))

/-- GET removes the first byte (R64). -/
theorem Block.queue_eq_cons (hne : s.len ≠ 0) :
    s.queue = s.memRead (s.idx s.rdPos) :: (s.setRdPos (s.rdPos + 1)).queue := by
  have hrest : (s.setRdPos (s.rdPos + 1)).queue = s.queue.drop 1 := Block.queue_setRdPos (Block.len_pos hne)
  have hhead : s.queue.head? = some (s.memRead (s.idx s.rdPos)) := List.head?_eq_getElem?.trans (Block.queue_head hne)
  rw [hrest, List.drop_one]
  exact List.eq_cons_of_mem_head? hhead

theorem Block.readCount_le_len (s : Block P) (size : Count P) : (s.readCount size).toNat ≤ s.len.toNat := by
  rw [Block.readCount_toNat]
  exact Nat.min_le_right _ _

/-- What a BULK_WRITE puts fits the free space (43_bulk_transfer.md R78, R79). -/
theorem Inv.len_add_writeCount_le (hinv : Inv s) (hd : s.initDone = true) (size : Count P) :
    s.len.toNat + (s.writeCount size).toNat ≤ s.mask.toNat + 1 := by
  have hsum : s.space.toNat + s.len.toNat = s.mask.toNat + 1 := hinv.space_add_len hd
  rw [Block.writeCount_toNat]
  omega

/-- The same of the bytes themselves, the first n of a data operand. -/
theorem Inv.len_add_length_take_le {d : List Byte} {m : Count P} (hinv : Inv s) (hd : s.initDone = true) (size : Count P)
    (hm : m = s.writeCount size) : s.len.toNat + (d.take m.toNat).length ≤ s.mask.toNat + 1 := by
  have hroom : s.len.toNat + (s.writeCount size).toNat ≤ s.mask.toNat + 1 := hinv.len_add_writeCount_le hd size
  rw [hm, List.length_take]
  omega

theorem Block.queue_takeBytes (h : n ≤ s.len.toNat) : (s.takeBytes n).queue = s.queue.drop n :=
  Block.queue_setRdPos h

theorem Block.rdStream_takeBytes (h : n ≤ s.len.toNat) : (s.takeBytes n).rdStream = s.rdStream ++ s.queue.take n := by
  rw [Block.queue_take h]
  rfl

theorem Block.len_takeBytes_toNat (h : n ≤ s.len.toNat) : (s.takeBytes n).len.toNat = s.len.toNat - n :=
  Block.len_setRdPos_toNat h

theorem Block.Live.takeBytes (hlive : s.Live) (h : n ≤ s.len.toNat) : (s.takeBytes n).Live :=
  (hlive.setRdPos h).congr ⟨rfl, rfl, rfl, rfl, rfl⟩

/-! ### Every command keeps the ring and its storage (10_state.md R29) -/

/-- A bound capacity is a power of two and the FIFO is empty (40_initialize.md R53, R54). -/
theorem Block.Live.bindCapacity {cap : Count P} (hlive : s.Live) (hcap : capOk P.awMax cap = true) :
    (s.bindCapacity cap).Live where
  capacity := by
    obtain ⟨k, hk, hpow⟩ := (capOk_iff_exists_two_pow P.awMax cap).mp hcap
    have hpos : 0 < 2 ^ k := Nat.two_pow_pos k
    have hne : cap ≠ 0 := by
      rw [Ne, count_eq_zero_iff_toNat]
      omega
    refine ⟨k, hk, ?_⟩
    rw [Block.bindCapacity_mask, toNat_sub_one_of_ne_zero hne]
    omega
  lenBound := by simp [Block.len, lengthOf]
  storeWf := hlive.storeWf
  liveWritten := by simp [Block.LiveWritten, Block.len, lengthOf]

theorem Block.Succeeds.live (h : s.Succeeds i t) (hinv : Inv s) : t.Live := by
  have hlive : s.Live := hinv.live
  cases h with
  | init hcap => exact (hlive.bindCapacity hcap).congr ⟨rfl, rfl, rfl, rfl, rfl⟩
  | put b hd hroom => exact (hlive.putByte (b := b) hroom).congr ⟨rfl, rfl, rfl, rfl, rfl⟩
  | get hd hne => exact (hlive.setRdPos (n := 1) (Block.len_pos hne)).congr ⟨rfl, rfl, rfl, rfl, rfl⟩
  | peek | flushUninitialized | len | bulkReadQ | bulkWriteQ => exact hlive.congr ⟨rfl, rfl, rfl, rfl, rfl⟩
  | flush => exact hlive.setRdPos_wrPos.congr ⟨rfl, rfl, rfl, rfl, rfl⟩
  | bulkRead hd hn =>
    exact (hlive.takeBytes (hn ▸ s.readCount_le_len _)).congr ⟨rfl, rfl, rfl, rfl, rfl⟩
  | bulkWrite hd hn =>
    exact (hlive.putBytes (hinv.len_add_length_take_le hd _ hn)).congr ⟨rfl, rfl, rfl, rfl, rfl⟩

theorem Block.rule_live (h : s.rule i = .next t) (hinv : Inv s) : t.Live := by
  obtain ⟨st, -, rfl⟩ | hs := Block.failsWith_or_succeeds h
  · exact hinv.live.congr ⟨rfl, rfl, rfl, rfl, rfl⟩
  · exact hs.live hinv

/-- On an uninitialized block every command but a successful INIT only responds: FLUSH and LEN are the two that end OK. -/
theorem Block.rule_eq_respond_of_uninitialized (h : s.rule i = .next t) (hd : s.initDone = false)
    (ht : t.initDone = false) : ∃ st m, t = s.respond st 0 m := by
  obtain ⟨st, -, rfl⟩ | hs := Block.failsWith_or_succeeds h
  · exact ⟨st, 0, rfl⟩
  · cases hs with
    | init => cases ht
    | flushUninitialized => exact ⟨.ok, 0, rfl⟩
    | len => exact ⟨.ok, s.len, rfl⟩
    | put _ hd' | get hd' | peek hd' | flush hd' | bulkReadQ hd' | bulkRead hd' | bulkWriteQ hd' | bulkWrite hd' =>
      exact absurd hd' (by simp [hd])

/-! ### Cells written and read -/

theorem Block.memRead_putBytes_of_ne {j : Index P}
    (hne : ∀ k, k < bs.length → j ≠ s.idx (s.wrPos + BitVec.ofNat P.cntW k)) :
    (s.putBytes bs).memRead j = s.memRead j := by
  induction bs generalizing s with
  | nil => rfl
  | cons b bs ih =>
    have hfirst : j ≠ s.idx s.wrPos := by simpa using hne 0 (Nat.succ_pos _)
    have hrest : ∀ k, k < bs.length → j ≠ (s.putByte b).idx ((s.putByte b).wrPos + BitVec.ofNat P.cntW k) := by
      intro k hk
      rw [Block.putByte_idx, Block.putByte_wrPos, add_one_add_ofNat]
      exact hne (k + 1) (Nat.succ_lt_succ hk)
    rw [Block.putBytes_cons, ih hrest, Block.memRead_putByte, if_neg hfirst]

/-- The k-th byte put is at idx(WR_POS + k): it is the queue's at position len() + k. -/
theorem Block.Ring.memRead_putBytes (hring : s.Ring) (hroom : s.len.toNat + bs.length ≤ s.mask.toNat + 1) {k : Nat}
    (hk : k < bs.length) : bs[k]? = some ((s.putBytes bs).memRead (s.idx (s.wrPos + BitVec.ofNat P.cntW k))) := by
  have hlen : s.len.toNat + k < (s.putBytes bs).len.toNat := by
    rw [hring.len_putBytes_toNat hroom]
    omega
  have hbyte : (s.queue ++ bs)[s.len.toNat + k]? = bs[k]? := by
    rw [List.getElem?_append_right (by rw [s.queue_length]; omega), s.queue_length, Nat.add_sub_cancel_left]
  have hcell := Block.queue_getElem? hlen
  rwa [hring.queue_putBytes hroom, hbyte, Block.putBytes_rdPos, ← add_ofNat_add, s.rdPos_add_ofNat_len, Block.idx,
    Block.putBytes_mask] at hcell

/-- The cell of an unread byte has been written, with the byte MemRead gives (R29 (I4)). -/
theorem Block.LiveWritten.read_eq (hlive : s.LiveWritten) (hn : n < s.len.toNat) :
    Memory.read s.store (s.idx (s.rdPos + BitVec.ofNat P.cntW n)).toNat =
      some (s.memRead (s.idx (s.rdPos + BitVec.ofNat P.cntW n))) := by
  obtain ⟨c, hc⟩ := Option.isSome_iff_exists.mp (hlive n hn)
  rw [Block.memRead, hc]

/-! ### Operands (30_encoding.md R45) -/

theorem Instr.toNat_ofNat_arg {w : Nat} (hwf : i.wf w = true) : (BitVec.ofNat w i.arg).toNat = i.arg :=
  Nat.mod_eq_of_lt (Instr.wf_iff_arg_lt.mp hwf)

theorem ofNat_mod_two_pow (w m : Nat) : BitVec.ofNat w (m % 2 ^ w) = BitVec.ofNat w m := by
  apply BitVec.eq_of_toNat_eq
  simp

/-! ### What a size query answers -/

/-- BULK_READ.Q reports len(), as a failure's count 0 where that is 0 (43_bulk_transfer.md R74, R89). -/
theorem Block.bulkReadQRule_of_initialized (hd : s.initDone = true) :
    ∃ st, s.bulkReadQRule = .next (s.respond st 0 s.len) := by
  by_cases hempty : s.len = 0
  · exact ⟨.empty, by rw [Block.bulkReadQRule_of_empty hd hempty, hempty]⟩
  · exact ⟨.ok, Block.bulkReadQRule_of_nonempty hd hempty⟩

/-- BULK_WRITE.Q reports the space, as a failure's count 0 where that is 0 (R76, R89). -/
theorem Block.bulkWriteQRule_of_initialized (hd : s.initDone = true) :
    ∃ st, s.bulkWriteQRule = .next (s.respond st 0 s.space) := by
  by_cases hfull : s.space = 0
  · exact ⟨.full, by rw [Block.bulkWriteQRule_of_full hd hfull, hfull]⟩
  · exact ⟨.ok, Block.bulkWriteQRule_of_room hd hfull⟩

/-! ### A request of 0 (43_bulk_transfer.md section 3) -/

theorem count_zero_toNat : (0 : Count P).toNat = 0 :=
  count_eq_zero_iff_toNat.mp rfl

theorem Block.readCount_zero (s : Block P) : s.readCount 0 = 0 :=
  count_eq_zero_iff_toNat.mpr (by rw [Block.readCount_toNat, count_zero_toNat, Nat.zero_min])

theorem Block.writeCount_zero (s : Block P) : s.writeCount 0 = 0 :=
  count_eq_zero_iff_toNat.mpr (by rw [Block.writeCount_toNat, count_zero_toNat, Nat.zero_min])

/-- A transfer of no byte has its response presented as any other command has (70_reset_and_hazards.md R107). -/
theorem Block.respondTransfer_zero (s : Block P) : s.respondTransfer 0 = s.respond .ok 0 0 := by
  simp [Block.respondTransfer, Block.respond]

end Sys2Proof.Machine

namespace Sys2Proof.Proofs

open Sys2Proof.Machine

/-- Settles O35: each way of ending OK moves the window as its name says: INIT and FLUSH empty it, PUT and BULK_WRITE extend
it by the bytes written, GET and BULK_READ shorten it by the bytes returned, the others leave it. -/
theorem commandsRefineAbstractQueue : Obligations.CommandsRefineAbstractQueue := by
  intro P s t i hinv hwf h hok
  have hring : s.Ring := hinv.live.toRing
  have harg : (BitVec.ofNat P.cntW i.arg).toNat = i.arg := Instr.toNat_ofNat_arg hwf
  cases Block.succeeds_of_rule (exec_eq_next_iff.mp h) hok with
  | init hcap => exact Block.queue_of_empty (lengthOf_self 0)
  | put b hd hroom => exact hring.queue_putByte hroom
  | get hd hne => exact Block.queue_eq_cons hne
  | @peek k hd hin =>
    have hk : (BitVec.ofNat P.cntW k).toNat = k := harg
    have hbyte := Block.queue_getElem?_toNat hin
    rw [hk] at hbyte
    exact ⟨rfl, hbyte⟩
  | flushUninitialized hd => exact Block.queue_of_empty (hinv.len_eq_zero_of_uninitialized hd)
  | flush hd => exact Block.queue_of_empty (s.len_setRdPos_wrPos)
  | len => exact ⟨rfl, s.queue_length.symm⟩
  | bulkReadQ hd => exact ⟨rfl, s.queue_length.symm⟩
  | @bulkRead size n hd hn =>
    have hsize : (BitVec.ofNat P.cntW size).toNat = size := harg
    have hcount : n.toNat = min size s.len.toNat := by rw [hn, s.readCount_toNat, hsize]
    have hle : n.toNat ≤ s.len.toNat := hn ▸ s.readCount_le_len _
    dsimp only
    rw [Block.respondTransfer_rspCount, Block.respondTransfer_queue, Block.respondTransfer_rdStream, s.queue_length]
    exact ⟨hcount, Block.queue_takeBytes hle, Block.rdStream_takeBytes hle⟩
  | bulkWriteQ hd => exact ⟨rfl, s.queue_length.symm ▸ hinv.space_add_len hd⟩
  | @bulkWrite size n hd hn hdata =>
    have hsize : (BitVec.ofNat P.cntW size).toNat = size := harg
    have hsum : s.space.toNat + s.len.toNat = s.mask.toNat + 1 := hinv.space_add_len hd
    have hcount : n.toNat = min size (s.mask.toNat + 1 - s.len.toNat) := by
      rw [hn, s.writeCount_toNat, hsize]
      omega
    dsimp only
    rw [Block.respondTransfer_rspCount, Block.respondTransfer_queue, Block.consume_queue, s.queue_length]
    exact ⟨hcount, hring.queue_putBytes (hinv.len_add_length_take_le hd _ hn), congrArg (List.drop _) (s.putBytes_wrData _)⟩

/-- Settles O36: the bound is the ring's, a failure moves no counter, and each success moves the counters by its amount. -/
theorem lengthChanges : Obligations.LengthChanges := by
  intro P s t i hinv h
  have hrule : s.rule i = .next t := exec_eq_next_iff.mp h
  refine ⟨(Block.rule_live hrule hinv).lenBound, fun ht => ?_, fun hne => ?_, fun hok => ?_⟩
  · have hd : s.initDone = false :=
      Bool.eq_false_of_not_eq_true fun hd => by simp [Block.rule_keeps_initDone hrule hd] at ht
    obtain ⟨st, m, rfl⟩ := Block.rule_eq_respond_of_uninitialized hrule hd ht
    exact hinv.len_eq_zero_of_uninitialized hd
  · rw [Block.rule_failure_eq hrule hne]
    rfl
  · cases Block.succeeds_of_rule hrule hok with
    | init hcap => exact lengthOf_self 0
    | put b hd hroom => exact hinv.live.toRing.len_putByte_toNat (b := b) hroom
    | get hd hne =>
      have hpos : 0 < s.len.toNat := Block.len_pos hne
      have hlen : (s.setRdPos (s.rdPos + 1)).len.toNat = s.len.toNat - 1 := Block.len_setRdPos_toNat hpos
      dsimp only
      rw [Block.respond_len, hlen]
      omega
    | peek | len | bulkReadQ | bulkWriteQ => rfl
    | flushUninitialized hd => exact hinv.len_eq_zero_of_uninitialized hd
    | flush hd => exact s.len_setRdPos_wrPos
    | @bulkRead size n hd hn =>
      have hle : n.toNat ≤ s.len.toNat := hn ▸ s.readCount_le_len _
      dsimp only
      rw [Block.respondTransfer_len, Block.len_takeBytes_toNat hle, Block.respondTransfer_rspCount]
      omega
    | bulkWrite hd hn hdata =>
      have hlen := hinv.live.toRing.len_putBytes_toNat (hinv.len_add_length_take_le (d := s.wrData) hd _ hn)
      dsimp only
      rw [Block.respondTransfer_len, Block.consume_len, hlen, List.length_take_of_le hdata, Block.respondTransfer_rspCount]

/-- Settles O24: PUT's write is one cell, and BULK_WRITE's are those of the put path, one position after another. -/
theorem storingCommandsFrame : Obligations.StoringCommandsFrame := by
  refine ⟨fun P s t b h hok j => ?_, fun P s t size h hok j hne => ?_⟩
  · cases Block.succeeds_of_rule (exec_eq_next_iff.mp h) hok with
    | put _ hd hroom => exact s.memRead_putByte b j
  · cases Block.succeeds_of_rule (exec_eq_next_iff.mp h) hok with
    | bulkWrite hd hn hdata =>
      rw [Block.respondTransfer_memRead, Block.consume_memRead]
      exact Block.memRead_putBytes_of_ne fun k hk => hne k (List.length_take_of_le hdata ▸ hk)

/-- Settles O25: the bytes of the transfer are the last n of the queue, so each still stands in its cell. -/
theorem bulkWriteStoresItsData : Obligations.BulkWriteStoresItsData := by
  intro P s t size hinv h hok k hk
  cases Block.succeeds_of_rule (exec_eq_next_iff.mp h) hok with
  | bulkWrite hd hn hdata =>
    rw [Block.respondTransfer_rspCount] at hk
    rw [Block.respondTransfer_memRead, Block.consume_memRead, ← List.getElem?_take_of_lt hk]
    exact hinv.live.toRing.memRead_putBytes (hinv.len_add_length_take_le hd _ hn)
      (by rwa [List.length_take_of_le hdata])

/-- Settles O22: a transfer's response is registered valid exactly where it has count 0. -/
theorem transferResponseIsOver : Obligations.TransferResponseIsOver := by
  refine fun P s t size => ⟨fun h hok => ?_, fun h hok => ?_⟩
  · cases Block.succeeds_of_rule (exec_eq_next_iff.mp h) hok with
    | bulkRead => exact decide_eq_true_iff
  · cases Block.succeeds_of_rule (exec_eq_next_iff.mp h) hok with
    | bulkWrite => exact decide_eq_true_iff

/-- Settles O43: the cells returned are in the live window, and every cell of the live window has been written. -/
theorem readsReturnWrittenBytes : Obligations.ReadsReturnWrittenBytes := by
  refine ⟨fun P s t hinv h hok => ?_, fun P s t k hinv h hok => ?_, fun P s t size hinv h hok k hk => ?_⟩
  · cases Block.succeeds_of_rule (exec_eq_next_iff.mp h) hok with
    | get hd hne => simpa using hinv.liveWritten.read_eq (Block.len_pos hne)
  · cases Block.succeeds_of_rule (exec_eq_next_iff.mp h) hok with
    | peek hd hin =>
      rw [BitVec.ofNat_toNat, BitVec.setWidth_eq] at hin ⊢
      simpa using hinv.liveWritten.read_eq (BitVec.lt_def.mp hin)
  · cases Block.succeeds_of_rule (exec_eq_next_iff.mp h) hok with
    | @bulkRead _ n hd hn =>
      rw [Block.respondTransfer_rspCount] at hk
      have hle : n.toNat ≤ s.len.toNat := hn ▸ s.readCount_le_len _
      have hkl : k < s.len.toNat := by omega
      rw [hinv.liveWritten.read_eq hkl, Block.respondTransfer_rdStream, Block.rdStream_takeBytes hle,
        List.getElem?_append_right (Nat.le_add_right _ _), Nat.add_sub_cancel_left, List.getElem?_take_of_lt hk,
        Block.queue_getElem? hkl]

/-- Settles O30: PUT answers in every branch of its rule, and the table has its FULL at len() = C. -/
theorem putFullExactlyAtCapacity : Obligations.PutFullExactlyAtCapacity := by
  intro P s b hinv hd
  obtain ⟨t, h⟩ : ∃ t, s.rule (.put b) = .next t := by
    obtain ⟨-, h⟩ | ⟨-, -, h⟩ | ⟨-, -, h⟩ := s.putRule_cases b <;> exact ⟨_, h⟩
  refine ⟨t, exec_eq_next_iff.mpr h, (Block.rspStatus_eq_code_iff (st := .full) h nofun).trans ?_⟩
  rw [Block.failsWith_full_iff hinv]
  simp [hd]

/-- Settles O32: the position after p is p plus 1 modulo the counter's range, which the capacity divides. -/
theorem indexRunsOnAcrossWrap : Obligations.IndexRunsOnAcrossWrap := by
  intro w a k mask p hka hmask
  have hnext : (indexer a mask (p + 1)).toNat = (p.toNat + 1) % 2 ^ k := indexer_add_ofNat_toNat p 1 hka hmask
  rw [hnext, indexer_toNat_of_two_pow p hka hmask, Nat.mod_add_mod]

/-- Settles O34: (I2) and (I3) keep both steps of the evaluation within the counter's range. -/
theorem spaceIsCapacityLessLength : Obligations.SpaceIsCapacityLessLength :=
  fun _ _ hinv hd => hinv.space_add_len hd

/-- Settles O41: a query's count is len(), or the space, in the failing branch as well, where that is 0. -/
theorem sizeQueriesAddToCapacity : Obligations.SizeQueriesAddToCapacity := by
  intro P s hinv hd
  obtain ⟨st, hread⟩ := Block.bulkReadQRule_of_initialized hd
  obtain ⟨st', hwrite⟩ := Block.bulkWriteQRule_of_initialized hd
  refine ⟨_, _, exec_eq_next_iff.mpr hread, exec_eq_next_iff.mpr hwrite, rfl, rfl, ?_⟩
  rw [Block.respond_rspCount, Block.respond_rspCount, Nat.add_comm]
  exact hinv.space_add_len hd

/-- Settles O40: the count is the smaller of 0 and what there is, so no byte moves and the response is valid. -/
theorem zeroRequestsMoveNothing : Obligations.ZeroRequestsMoveNothing := by
  refine ⟨fun P s hd hne => exec_eq_next_iff.mpr ?_, fun P s hd hroom => exec_eq_next_iff.mpr ?_⟩
  · have hrule := Block.bulkReadRule_eq_takeBytes (size := 0) hd hne
    rw [s.readCount_zero, count_zero_toNat, Block.takeBytes_zero, Block.respondTransfer_zero] at hrule
    exact hrule
  · have hdata : (s.writeCount 0).toNat ≤ s.wrData.length := by
      rw [s.writeCount_zero, count_zero_toNat]
      exact Nat.zero_le _
    have hrule := Block.bulkWriteRule_eq_putBytes (size := 0) hd hroom hdata
    rw [s.writeCount_zero, count_zero_toNat, List.take_zero, Block.putBytes_nil, Block.respondTransfer_zero] at hrule
    exact hrule

/-- Settles O42: on an uninitialized block FLUSH only responds, on an initialized one RD_POS is WR_POS after the first. -/
theorem flushIsIdempotent : Obligations.FlushIsIdempotent := by
  intro P s hinv
  cases hd : s.initDone with
  | false =>
    exact ⟨_, exec_eq_next_iff.mpr (Block.flushRule_of_uninitialized hd), rfl, hinv.len_eq_zero_of_uninitialized hd,
      exec_eq_next_iff.mpr (Block.flushRule_of_uninitialized (s := s.respond .ok 0 0) hd)⟩
  | true =>
    exact ⟨_, exec_eq_next_iff.mpr (Block.flushRule_of_initialized hd), rfl, s.len_setRdPos_wrPos,
      exec_eq_next_iff.mpr (Block.flushRule_of_initialized (s := (s.setRdPos s.wrPos).respond .ok 0 0) hd)⟩

/-- Settles O7: the rule of each of the four commands has its operand on the port already cut. -/
theorem operandsAreCutToThePort : Obligations.OperandsAreCutToThePort := by
  rintro ⟨P, s⟩ arr m
  simp only [exec_mk, Block.rule, ofNat_mod_two_pow, and_self]

/-- Settles O5: each word's fields, read and looked up. -/
theorem writtenWordsDecode : Obligations.WrittenWordsDecode := by
  unfold Obligations.WrittenWordsDecode
  decide

end Sys2Proof.Proofs
end

section
/-! PROOFS. Singles: PUTs and GETs one after another, the round trip, PEEK against GETs, and the bulk transfers against both (42_single_element.md section 2; 43_bulk_transfer.md section 3). -/

namespace Sys2Proof.Machine

variable {P : Params} {s : Block P} {b : Byte} {bs : List Byte} {n : Nat}

/-- Puts neither read nor write the response. -/
theorem Block.putBytes_respond (s : Block P) (st : Status) (b : Byte) (m : Count P) (bs : List Byte) :
    (s.respond st b m).putBytes bs = (s.putBytes bs).respond st b m :=
  List.foldl_hom (Block.respond · st b m) fun _ _ => rfl

/-- PUTs that fit the free space all end OK and leave the five registers as the put path does (R63). -/
theorem runOk_puts (hring : s.Ring) (hd : s.initDone = true) (hroom : s.len.toNat + bs.length ≤ s.mask.toNat + 1) :
    ∃ t r, runOk (bs.map Instr.put) ⟨P, s⟩ = some (⟨P, t⟩, r) ∧ SameArch (s.putBytes bs) t := by
  induction bs generalizing s with
  | nil => exact ⟨s, [], rfl, rfl, rfl, rfl, rfl, rfl⟩
  | cons b bs ih =>
    rw [List.length_cons] at hroom
    have hfree : s.len.toNat ≤ s.mask.toNat := by omega
    have hlen : (s.putByte b).len.toNat = s.len.toNat + 1 := hring.len_putByte_toNat hfree
    have hput : exec (.put b) ⟨P, s⟩ = .next ⟨P, (s.putByte b).respond .ok 0 0⟩ :=
      exec_eq_next_iff.mpr (Block.putRule_of_room hd (BitVec.le_def.mpr hfree))
    have hring' : ((s.putByte b).respond .ok 0 0).Ring := (hring.putByte hfree).congr ⟨rfl, rfl, rfl, rfl, rfl⟩
    have hroom' : ((s.putByte b).respond .ok 0 0).len.toNat + bs.length ≤ s.mask.toNat + 1 := by
      rw [Block.respond_len, hlen]
      omega
    obtain ⟨t, r, hrun, hsame⟩ := ih hring' hd hroom'
    rw [Block.putBytes_respond] at hsame
    exact ⟨t, _, runOk_cons_of_next hput rfl hrun, hsame.initDone, hsame.mask, hsame.rdPos, hsame.wrPos, hsame.store⟩

/-- GETs of buffered bytes all end OK, return the first bytes of the queue and leave the five registers as a BULK_READ of as
many bytes does (R64). -/
theorem runOk_gets (hd : s.initDone = true) (hn : n ≤ s.len.toNat) :
    ∃ t, runOk (List.replicate n Instr.get) ⟨P, s⟩ = some (⟨P, t⟩, s.queue.take n) ∧ SameArch (s.takeBytes n) t := by
  induction n generalizing s with
  | zero => exact ⟨s, rfl, rfl, rfl, by rw [Block.takeBytes_zero], rfl, rfl⟩
  | succ n ih =>
    have hne : s.len ≠ 0 := by
      rw [Ne, count_eq_zero_iff_toNat]
      omega
    have hlen : (s.setRdPos (s.rdPos + 1)).len.toNat = s.len.toNat - 1 := Block.len_setRdPos_toNat (n := 1) (by omega)
    have hget : exec .get ⟨P, s⟩ =
        .next ⟨P, (s.setRdPos (s.rdPos + 1)).respond .ok (s.memRead (s.idx s.rdPos)) 0⟩ :=
      exec_eq_next_iff.mpr (Block.getRule_of_nonempty hd hne)
    obtain ⟨t, hrun, hsame⟩ := ih
      (s := (s.setRdPos (s.rdPos + 1)).respond .ok (s.memRead (s.idx s.rdPos)) 0) hd (by rw [Block.respond_len, hlen]; omega)
    refine ⟨t, ?_, ?_⟩
    · rw [Block.queue_eq_cons hne]
      exact runOk_cons_of_next hget rfl hrun
    · rw [Block.takeBytes_succ]
      exact ⟨hsame.initDone, hsame.mask, hsame.rdPos, hsame.wrPos, hsame.store⟩

/-- A run of bytes taken, up to position k of the queue, ends with the queue's byte there. -/
theorem Block.getLast?_queue_take {k : Nat} {c : Byte} (hk : s.queue[k]? = some c) :
    (s.queue.take (k + 1)).getLast? = some c := by
  rw [List.getLast?_take, if_neg (Nat.succ_ne_zero k), Nat.add_sub_cancel, hk, Option.some_or]

end Sys2Proof.Machine

namespace Sys2Proof.Proofs

open Sys2Proof.Machine

/-- Settles O37: after the PUTs the queue is the list, and the GETs return the queue. -/
theorem putGetRoundTrip : Obligations.PutGetRoundTrip := by
  intro P s bs hinv hd hempty hfit
  have hring : s.Ring := hinv.live.toRing
  have hzero : s.len.toNat = 0 := count_eq_zero_iff_toNat.mp hempty
  have hroom : s.len.toNat + bs.length ≤ s.mask.toNat + 1 := by omega
  obtain ⟨t, r, hputs, hsame⟩ := runOk_puts hring hd hroom
  have hqueue : t.queue = bs := by
    rw [← hsame.queue_eq, hring.queue_putBytes hroom, Block.queue_of_empty hempty, List.nil_append]
  have hinit : t.initDone = true := by rw [← hsame.initDone, Block.putBytes_initDone, hd]
  obtain ⟨u, hgets, -⟩ := runOk_gets (n := bs.length) hinit (by rw [← t.queue_length, hqueue])
  rw [hqueue, List.take_length] at hgets
  exact ⟨t, u, r, hputs, hgets⟩

/-- Settles O38: PEEK's byte is the queue's at position k, which is the last of the k + 1 first ones. -/
theorem peekAgreesWithGets : Obligations.PeekAgreesWithGets := by
  intro P s k hinv hd hin
  obtain ⟨u, hgets, -⟩ := runOk_gets (n := k.toNat + 1) hd (BitVec.lt_def.mp hin)
  have hpeek : exec (.peek k.toNat) ⟨P, s⟩ = .next ⟨P, s.respond .ok (s.memRead (s.idx (s.rdPos + k))) 0⟩ := by
    rw [exec_peek_toNat, Block.peekRule_of_inRange hd hin, liftBlock_next]
  exact ⟨_, u, _, hpeek, rfl, rfl, hgets, Block.getLast?_queue_take (Block.queue_getElem?_toNat hin)⟩

/-- Settles O39: a BULK_READ takes the bytes that n GETs return, and a BULK_WRITE is the put path n times. -/
theorem bulkTransfersEqualSingles : Obligations.BulkTransfersEqualSingles := by
  refine ⟨fun P s t size hinv h hok => ?_, fun P s t size hinv h hok => ?_⟩
  · cases Block.succeeds_of_rule (exec_eq_next_iff.mp h) hok with
    | @bulkRead _ n hd hn =>
      have hle : n.toNat ≤ s.len.toNat := hn ▸ s.readCount_le_len _
      obtain ⟨u, hgets, hsame⟩ := runOk_gets hd hle
      exact ⟨u, _, hgets, ⟨hsame.initDone, hsame.mask, hsame.rdPos, hsame.wrPos, hsame.store⟩, Block.rdStream_takeBytes hle⟩
  · cases Block.succeeds_of_rule (exec_eq_next_iff.mp h) hok with
    | bulkWrite hd hn hdata =>
      obtain ⟨u, r, hputs, hsame⟩ := runOk_puts hinv.live.toRing hd (hinv.len_add_length_take_le (d := s.wrData) hd _ hn)
      exact ⟨u, r, hputs, hsame.initDone, hsame.mask, hsame.rdPos, hsame.wrPos, hsame.store⟩

end Sys2Proof.Proofs
end

section
/-! PROOFS. Invariants: the reset state meets them, and every kind of step keeps them (10_state.md R29 and the registers around it; 70_reset_and_hazards.md section 2). -/

namespace Sys2Proof.Machine

variable {P : Params} {i : Instr} {s t : Block P} {p : PortIn P} {b : Byte}

/-! ### The invariants from their parts -/

/-- The beats a block owes its transfer are within what it can give or take (R26, R104, R105). -/
inductive Block.Owes (s : Block P) : Prop where
  | nothing : s.phase = phaseIdle → s.remain = 0 → Owes s
  | writes : s.phase = phaseXferWr → 0 < s.remain.toNat → s.len.toNat + s.remain.toNat ≤ s.mask.toNat + 1 → Owes s
  | reads : s.phase = phaseXferRd → 0 < s.remain.toNat → s.remain.toNat ≤ s.len.toNat → Owes s

theorem Inv.of_live (hlive : s.Live) (hd : s.initDone = true) (hst : s.rspStatus ≠ 7) (howes : s.Owes) : Inv s where
  storeWf := hlive.storeWf
  statusNamed := hst
  phaseNamed := by cases howes with
    | nothing hp | writes hp | reads hp => simp [hp]
  uninitialized := by simp [hd]
  capacity _ := hlive.capacity
  lenBound := hlive.lenBound
  liveWritten := hlive.liveWritten
  idleRemain := by cases howes with
    | nothing hp hr => exact fun _ => hr
    | writes hp | reads hp => simp [hp]
  writeRemain := by cases howes with
    | writes hp hpos hle => exact fun _ => ⟨hpos, hle⟩
    | nothing hp | reads hp => simp [hp]
  readRemain := by cases howes with
    | reads hp hpos hle => exact fun _ => ⟨hpos, hle⟩
    | nothing hp | writes hp => simp [hp]

/-- The invariants do not speak of the host's side, of RSP_VALID, RSP_BYTE and RSP_COUNT, and of RSP_STATUS only that it is
a status's code. -/
theorem Inv.congr (hinv : Inv s) (h : SameArch s t) (hphase : s.phase = t.phase) (hremain : s.remain = t.remain)
    (hst : t.rspStatus ≠ 7) : Inv t where
  storeWf := h.store ▸ hinv.storeWf
  statusNamed := hst
  phaseNamed := hphase ▸ hinv.phaseNamed
  uninitialized := by
    rw [← h.initDone, ← h.rdPos, ← h.wrPos, ← h.mask, ← hphase]
    exact hinv.uninitialized
  capacity := by
    rw [← h.initDone, ← h.mask]
    exact hinv.capacity
  lenBound := (hinv.live.congr h).lenBound
  liveWritten := (hinv.live.congr h).liveWritten
  idleRemain := by
    rw [← hphase, ← hremain]
    exact hinv.idleRemain
  writeRemain := by
    rw [← hphase, ← hremain, ← h.len_eq, ← h.mask]
    exact hinv.writeRemain
  readRemain := by
    rw [← hphase, ← hremain, ← h.len_eq]
    exact hinv.readRemain

theorem Inv.respond (hinv : Inv s) (st : Status) (b : Byte) (n : Count P) : Inv (s.respond st b n) :=
  hinv.congr ⟨rfl, rfl, rfl, rfl, rfl⟩ rfl rfl st.code_ne_reserved

theorem Inv.endResponse (hinv : Inv s) : Inv s.endResponse :=
  hinv.congr ⟨rfl, rfl, rfl, rfl, rfl⟩ rfl rfl hinv.statusNamed

theorem Inv.consume (hinv : Inv s) (k : Nat) : Inv (s.consume k) :=
  hinv.congr ⟨rfl, rfl, rfl, rfl, rfl⟩ rfl rfl hinv.statusNamed

theorem Inv.offer (hinv : Inv s) (d : List Byte) : Inv (s.offer d) :=
  hinv.congr ⟨rfl, rfl, rfl, rfl, rfl⟩ rfl rfl hinv.statusNamed

theorem Inv.present (hinv : Inv s) (acts : List (HostAct P)) : Inv (s.present acts) :=
  hinv.congr ⟨rfl, rfl, rfl, rfl, rfl⟩ rfl rfl hinv.statusNamed

/-- Only an initialized block is ever in a transfer. -/
theorem Inv.initDone_of_transfer (hinv : Inv s) (hp : s.phase ≠ phaseIdle) : s.initDone = true := by
  by_contra hd
  obtain ⟨-, -, -, hidle⟩ := hinv.uninitialized (Bool.eq_false_of_not_eq_true hd)
  exact hp hidle

/-! ### Reset (R98) -/

/-- The reset values meet the invariants over any storage in canonical form. -/
theorem Inv.of_resetRegisters (hwf : Memory.wf P.capMax s.store = true) : Inv s.resetRegisters where
  storeWf := hwf
  statusNamed := by simp
  phaseNamed := by simp
  uninitialized _ := ⟨rfl, rfl, rfl, rfl⟩
  capacity := by simp
  lenBound := by simp [Block.len, lengthOf]
  liveWritten := by simp [Block.LiveWritten, Block.len, lengthOf]
  idleRemain _ := rfl
  writeRemain := by simp
  readRemain := by simp

theorem inv_resetAt (P : Params) : Inv (State.resetAt P).block :=
  Inv.of_resetRegisters (s := Block.reset P) (Memory.wf_reset P)

/-! ### The commands -/

theorem Block.rule_keeps_remain (h : s.rule i = .next t) : t.remain = s.remain := by
  obtain ⟨st, -, rfl⟩ | hs := Block.failsWith_or_succeeds h
  · rfl
  · cases hs with
    | bulkWrite => simp
    | _ => rfl

/-- A whole command at a command boundary keeps the invariants. -/
theorem Block.rule_inv (h : s.rule i = .next t) (hinv : Inv s) (hp : s.phase = phaseIdle) : Inv t := by
  cases ht : t.initDone with
  | true =>
    have hremain : t.remain = 0 := (Block.rule_keeps_remain h).trans (hinv.idleRemain hp)
    exact Inv.of_live (Block.rule_live h hinv) ht (Block.rspStatus_ne_reserved h)
      (.nothing ((Block.rule_keeps_phase h).trans hp) hremain)
  | false =>
    have hd : s.initDone = false :=
      Bool.eq_false_of_not_eq_true fun hd => by simp [Block.rule_keeps_initDone h hd] at ht
    obtain ⟨st, m, rfl⟩ := Block.rule_eq_respond_of_uninitialized h hd ht
    exact hinv.respond st 0 m

theorem Inv.startTransfer {ph : BitVec 2} {n : Count P} (hinv : Inv s) (hd : s.initDone = true)
    (howes : (s.startTransfer ph n).Owes) : Inv (s.startTransfer ph n) :=
  Inv.of_live (hinv.live.congr ⟨rfl, rfl, rfl, rfl, rfl⟩) hd hinv.statusNamed howes

/-- A transfer that starts owes at most the bytes, or the space, that there are (R103). -/
theorem accept_inv (h : accept i s = .next t) (hinv : Inv s) (hp : s.phase = phaseIdle) : Inv t := by
  obtain ⟨ph, n, htransfer, ha⟩ | ⟨-, ha⟩ := accept_cases i s
  · cases ha.symm.trans h
    have hbound : s.len.toNat ≤ s.mask.toNat + 1 := hinv.lenBound
    obtain ⟨size, rfl, rfl, hn, hd, -, hne⟩ | ⟨size, rfl, rfl, hn, hd, -, hne⟩ := transferOf_cases htransfer
    · have hpos : n.toNat ≠ 0 := mt count_eq_zero_iff_toNat.mpr hne
      have hle : n.toNat ≤ s.len.toNat := hn ▸ s.readCount_le_len _
      have hremain : (s.startTransfer phaseXferRd n).remain.toNat = n.toNat :=
        hinv.toNat_remain_of_le_capacity hd (by omega)
      have howes : (s.startTransfer phaseXferRd n).Owes := .reads rfl (by omega) (by rwa [hremain])
      exact (hinv.startTransfer hd howes).respond .ok 0 n
    · have hpos : n.toNat ≠ 0 := mt count_eq_zero_iff_toNat.mpr hne
      have hle : s.len.toNat + n.toNat ≤ s.mask.toNat + 1 := hn ▸ hinv.len_add_writeCount_le hd _
      have hremain : (s.startTransfer phaseXferWr n).remain.toNat = n.toNat :=
        hinv.toNat_remain_of_le_capacity hd (by omega)
      have howes : (s.startTransfer phaseXferWr n).Owes := .writes rfl (by omega) (by rwa [hremain])
      exact (hinv.startTransfer hd howes).respond .ok 0 n
  · exact Block.rule_inv (ha.symm.trans h) hinv hp

/-! ### The beats (R104, R105) -/

theorem remain_eq_one {r : BeatCount P} (h : r.toNat = 1) : r = 1 :=
  BitVec.eq_of_toNat_eq (h.trans (BitVec.toNat_one (Nat.succ_pos _)).symm)

/-- A beat that is not the last leaves one beat fewer to go. -/
theorem remain_sub_one_toNat {r : BeatCount P} (hpos : 0 < r.toNat) (hlast : r ≠ 1) :
    1 < r.toNat ∧ (r - 1).toNat = r.toNat - 1 := by
  have hne : r ≠ 0 := by
    rintro rfl
    simp at hpos
  have hone : r.toNat ≠ 1 := mt remain_eq_one hlast
  exact ⟨by omega, toNat_sub_one_of_ne_zero hne⟩

theorem Inv.writeBeat (hinv : Inv s) (hp : s.phase = phaseXferWr) : Inv (s.writeBeat b) := by
  obtain ⟨hpos, hle⟩ := hinv.writeRemain hp
  have hroom : s.len.toNat ≤ s.mask.toNat := by omega
  have hd : s.initDone = true := hinv.initDone_of_transfer (by simp [hp])
  have hlive : (s.writeBeat b).Live := (hinv.live.putByte hroom).congr ⟨rfl, rfl, rfl, rfl, rfl⟩
  refine Inv.of_live hlive hd hinv.statusNamed ?_
  by_cases hlast : s.remain = 1
  · exact .nothing (if_pos hlast) (by simp [Block.writeBeat, hlast])
  · obtain ⟨hmore, hrest⟩ := remain_sub_one_toNat hpos hlast
    have hremain : (s.writeBeat b).remain.toNat = s.remain.toNat - 1 := hrest
    have hlen : (s.writeBeat b).len.toNat = s.len.toNat + 1 := hinv.live.toRing.len_putByte_toNat (b := b) hroom
    have hmask : (s.writeBeat b).mask = s.mask := rfl
    exact .writes ((if_neg hlast).trans hp) (by omega) (by rw [hmask]; omega)

theorem Inv.readBeat (hinv : Inv s) (hp : s.phase = phaseXferRd) : Inv s.readBeat := by
  obtain ⟨hpos, hle⟩ := hinv.readRemain hp
  have hsome : 1 ≤ s.len.toNat := by omega
  have hd : s.initDone = true := hinv.initDone_of_transfer (by simp [hp])
  have hlive : s.readBeat.Live := (hinv.live.setRdPos (n := 1) hsome).congr ⟨rfl, rfl, rfl, rfl, rfl⟩
  refine Inv.of_live hlive hd hinv.statusNamed ?_
  by_cases hlast : s.remain = 1
  · exact .nothing (if_pos hlast) (by simp [Block.readBeat, hlast])
  · obtain ⟨hmore, hrest⟩ := remain_sub_one_toNat hpos hlast
    have hremain : s.readBeat.remain.toNat = s.remain.toNat - 1 := hrest
    have hlen : s.readBeat.len.toNat = s.len.toNat - 1 := Block.len_setRdPos_toNat (n := 1) hsome
    exact .reads ((if_neg hlast).trans hp) (by omega) (by omega)

/-! ### One clock edge and one step -/

theorem Inv.wait (hinv : Inv s) (p : PortIn P) : Inv (s.wait p) := by
  obtain ⟨hp, -, hw⟩ | ⟨hp, -, hw⟩ | ⟨-, -, hw⟩ := s.wait_cases p
  · exact hw ▸ hinv.endResponse.writeBeat hp
  · exact hw ▸ hinv.endResponse.readBeat hp
  · exact hw ▸ hinv.endResponse

theorem clockEdge_inv (h : clockEdge p s = .next t) (hinv : Inv s) : Inv t := by
  obtain ⟨-, he⟩ | ⟨-, -, hp, he⟩ | ⟨-, -, he⟩ := clockEdge_cases p s
  · cases he.symm.trans h
    exact Inv.of_resetRegisters hinv.storeWf
  · exact accept_inv (he.symm.trans h) hinv hp
  · cases he.symm.trans h
    exact hinv.wait p

theorem Inv.holdCommand (hinv : Inv s) (c : CmdWord P) : Inv (s.holdCommand c) := by
  unfold Block.holdCommand
  split
  · exact (hinv.wait _).consume 1
  · exact hinv.wait _

theorem step_inv (h : step ⟨P, s⟩ = .next ⟨P, t⟩) (hinv : Inv s) : Inv t := by
  obtain ⟨-, hs⟩ | ⟨p, rest, -, hs⟩ | ⟨c, d, rest, -, hp, hs⟩ | ⟨c, d, rest, -, -, hs⟩ := step_cases s
  · exact clockEdge_inv (liftBlock_eq_next_iff.mp (hs.symm.trans h)) hinv
  · exact clockEdge_inv (liftBlock_eq_next_iff.mp (hs.symm.trans h)) (hinv.present rest)
  · exact Block.rule_inv (liftBlock_eq_next_iff.mp (hs.symm.trans h)) ((hinv.present rest).offer d) hp
  · cases hs.symm.trans h
    exact hinv.holdCommand c

end Sys2Proof.Machine

namespace Sys2Proof.Proofs

open Sys2Proof.Machine

/-- Settles O44: the reset state is the reset registers over a storage with no cell written. -/
theorem resetMeetsInvariants : Obligations.ResetMeetsInvariants :=
  ⟨inv_resetAt, inv_resetAt Params.reference⟩

/-- Settles O45: reset, acceptance, each kind of beat, a whole command and a held command each keep the invariants. -/
theorem stepKeepsInvariants : Obligations.StepKeepsInvariants :=
  fun _ _ _ hinv h => step_inv h hinv

end Sys2Proof.Proofs
end

section
/-! PROOFS. Steps: one equation per kind of step, by what the host presents and PHASE (00_scope.md section 5; 70_reset_and_hazards.md section 2; log 3, log 8, log 9, log 10). -/

namespace Sys2Proof.Machine

variable {P : Params} {s : Block P} {c : CmdWord P} {d : List Byte} {rest : List (HostAct P)} {b : Byte} {bs : List Byte}

theorem step_of_nothing (hh : s.host = []) : step ⟨P, s⟩ = liftBlock P (clockEdge PortIn.idle s) := by
  simpa [hh] using step_cases s

theorem step_of_cycle {p : PortIn P} (hh : s.host = .cycle p :: rest) :
    step ⟨P, s⟩ = liftBlock P (clockEdge p (s.present rest)) := by
  simpa [hh] using step_cases s

theorem step_of_command (hh : s.host = .command c d :: rest) (hp : s.phase = phaseIdle) :
    step ⟨P, s⟩ = liftBlock P (((s.present rest).offer d).rule (decode c)) := by
  simpa [hh, hp] using step_cases s

theorem step_of_held (hh : s.host = .command c d :: rest) (hp : s.phase ≠ phaseIdle) :
    step ⟨P, s⟩ = .next ⟨P, s.holdCommand c⟩ := by
  simpa [hh, hp] using step_cases s

/-- A held command's edge in a read transfer is a read beat. -/
theorem Block.holdCommand_of_read (hp : s.phase = phaseXferRd) : s.holdCommand c = s.endResponse.readBeat := by
  have hno : s.phase ≠ phaseXferWr := by simp [hp]
  simp only [Block.holdCommand, if_neg hno]
  exact Block.wait_of_read hp rfl

/-- A held command's edge in a write transfer is a write beat of the next byte offered, which is offered no more. -/
theorem Block.holdCommand_of_write (hp : s.phase = phaseXferWr) (hdata : s.wrData = b :: bs) :
    s.holdCommand c = (s.endResponse.writeBeat b).consume 1 := by
  have hbeat : s.wait (PortIn.held c s) = s.endResponse.writeBeat (PortIn.held c s).wrByte :=
    Block.wait_of_write hp (by simp [PortIn.held, hdata])
  have hbyte : (PortIn.held c s).wrByte = b := by simp [PortIn.held, hdata]
  simp only [Block.holdCommand, if_pos hp, hbeat, hbyte]

/-- The command a number decodes to is that of the word with the number's bits. -/
theorem decode_of_decodeNumber {w n : Nat} {i : Instr} (h : decodeNumber w n = .ok i) :
    decode (BitVec.ofNat (w + 12) n) = i := by
  unfold decodeNumber at h
  split at h
  · exact Except.ok.inj h
  · cases h

end Sys2Proof.Machine

namespace Sys2Proof.Proofs

open Sys2Proof.Machine

/-- Settles O9: a presented word and a placed one are decoded and run at a command boundary; the table's decoder is the
number decoder at the reference CNT_W. -/
theorem stepRunsDecodedCommand : Obligations.StepRunsDecodedCommand := by
  refine ⟨fun P s c d rest hh hp => ?_, fun P s nbits w i hdec => ?_, fun nbits w i => ?_⟩
  · rw [step_of_command hh hp, exec_mk]
    rfl
  · have hstep := step_of_command (s := s.presentWord (w % 2 ^ nbits)) rfl rfl
    rw [decode_of_decodeNumber hdec] at hstep
    exact hstep.trans (exec_mk i _).symm
  · show decodeTableWord nbits w = some i ↔ decodeNumber Params.reference.cntW (w % 2 ^ nbits) = .ok i
    unfold decodeTableWord
    cases decodeNumber Params.reference.cntW (w % 2 ^ nbits) <;> simp

/-- Settles O10: a presented cycle and an idle one are clock edges; a held command's edge is the transfer's beat, and the
edge that offers or takes the byte has the same one. -/
theorem stepOfCyclesAndWaits : Obligations.StepOfCyclesAndWaits := by
  refine ⟨fun P s p rest hh => step_of_cycle hh, fun P s hh => step_of_nothing hh, fun P s c d rest hh hp => ?_,
    fun P s c d rest b bs hh hp hdata => ⟨s.endResponse.writeBeat b, ?_, ?_⟩⟩
  · rw [step_of_held hh (by simp [hp]), Block.holdCommand_of_read hp, clockEdge_in_transfer rfl (by simp [hp]),
      Block.wait_of_read hp rfl, liftBlock_next]
  · rw [clockEdge_in_transfer rfl (by simp [hp]), Block.wait_of_write hp rfl]
  · have htail : bs = s.wrData.drop 1 := by rw [hdata, List.drop_one, List.tail_cons]
    rw [step_of_held hh (by simp [hp]), Block.holdCommand_of_write hp hdata, htail]
    rfl

end Sys2Proof.Proofs
end

section
/-! PROOFS. View: what a step shows and does depends on the registers and the abstract queue alone, so the storage cells outside the live window are unobservable (10_state.md R30). -/

namespace Sys2Proof.Machine

variable {P : Params} {i : Instr} {s t : Block P} {p : PortIn P} {b : Byte} {bs : List Byte} {n : Nat}

/-! ### What the same view determines -/

theorem SameView.len_eq (h : SameView s t) : s.len = t.len := by
  rw [Block.len, h.rdPos, h.wrPos, Block.len]

theorem SameView.space_eq (h : SameView s t) : s.space = t.space := by
  rw [Block.space, h.mask, h.rdPos, h.wrPos, Block.space]

theorem SameView.readCount_eq (h : SameView s t) (size : Count P) : s.readCount size = t.readCount size := by
  rw [Block.readCount, h.len_eq, Block.readCount]

theorem SameView.writeCount_eq (h : SameView s t) (size : Count P) : s.writeCount size = t.writeCount size := by
  rw [Block.writeCount, h.space_eq, Block.writeCount]

theorem SameView.ring (h : SameView s t) (hring : s.Ring) : t.Ring :=
  ⟨h.mask ▸ hring.capacity, h.mask ▸ h.len_eq ▸ hring.lenBound⟩

/-- A byte of the live window is one of the queue, whatever cells hold it. -/
theorem SameView.memRead_eq (h : SameView s t) {k : Count P} (hk : k < s.len) :
    s.memRead (s.idx (s.rdPos + k)) = t.memRead (t.idx (t.rdPos + k)) := by
  have hs : s.queue[k.toNat]? = some (s.memRead (s.idx (s.rdPos + k))) := Block.queue_getElem?_toNat hk
  have ht : t.queue[k.toNat]? = some (t.memRead (t.idx (t.rdPos + k))) := Block.queue_getElem?_toNat (h.len_eq ▸ hk)
  rw [h.queue, ht] at hs
  exact (Option.some.inj hs).symm

theorem SameView.memRead_head_eq (h : SameView s t) (hne : s.len ≠ 0) :
    s.memRead (s.idx s.rdPos) = t.memRead (t.idx t.rdPos) := by
  have hpos : (0 : Count P) < s.len := (BitVec.pos_iff_ne_zero s.len).mpr hne
  simpa using h.memRead_eq hpos

theorem SameView.transferOf_eq (h : SameView s t) (i : Instr) : transferOf i s = transferOf i t := by
  cases i with
  | bulkRead size => simp only [transferOf, h.readCount_eq, h.initDone, h.len_eq]
  | bulkWrite size => simp only [transferOf, h.writeCount_eq, h.initDone, h.space_eq]
  | _ => rfl

/-! ### The named updates keep the view -/

theorem SameView.respond (h : SameView s t) (st : Status) (b : Byte) (m : Count P) :
    SameView (s.respond st b m) (t.respond st b m) :=
  { h with rspValid := rfl, rspStatus := rfl, rspByte := rfl, rspCount := rfl }

theorem SameView.respondTransfer (h : SameView s t) (m : Count P) : SameView (s.respondTransfer m) (t.respondTransfer m) :=
  { h with rspValid := rfl, rspStatus := rfl, rspByte := rfl, rspCount := rfl }

theorem SameView.endResponse (h : SameView s t) : SameView s.endResponse t.endResponse :=
  { h with rspValid := rfl }

theorem SameView.present (h : SameView s t) (acts : List (HostAct P)) : SameView (s.present acts) (t.present acts) :=
  { h with host := rfl }

theorem SameView.offer (h : SameView s t) (d : List Byte) : SameView (s.offer d) (t.offer d) :=
  { h with wrData := rfl }

theorem SameView.consume (h : SameView s t) (k : Nat) : SameView (s.consume k) (t.consume k) :=
  { h with wrData := congrArg (List.drop k) h.wrData }

theorem SameView.startTransfer (h : SameView s t) (ph : BitVec 2) (m : Count P) :
    SameView (s.startTransfer ph m) (t.startTransfer ph m) :=
  { h with phase := rfl, remain := rfl }

theorem SameView.countBeat (h : SameView s t) : SameView s.countBeat t.countBeat :=
  { h with
    phase := by rw [Block.countBeat_phase, Block.countBeat_phase, h.remain, h.phase]
    remain := by rw [Block.countBeat_remain, Block.countBeat_remain, h.remain] }

/-- Bound or reset, a FIFO is empty whatever its cells hold. -/
theorem Block.bindCapacity_queue (s : Block P) (cap : Count P) : (s.bindCapacity cap).queue = [] :=
  Block.queue_of_empty (lengthOf_self (0 : Count P))

theorem Block.resetRegisters_queue (s : Block P) : s.resetRegisters.queue = [] :=
  Block.queue_of_empty (lengthOf_self (0 : Count P))

theorem SameView.bindCapacity (h : SameView s t) (cap : Count P) : SameView (s.bindCapacity cap) (t.bindCapacity cap) :=
  { h with
    initDone := rfl, mask := rfl, rdPos := rfl, wrPos := rfl
    queue := by rw [Block.bindCapacity_queue, Block.bindCapacity_queue] }

theorem SameView.resetRegisters (h : SameView s t) : SameView s.resetRegisters t.resetRegisters :=
  { h with
    initDone := rfl, mask := rfl, rdPos := rfl, wrPos := rfl, rspValid := rfl, rspStatus := rfl, rspByte := rfl
    rspCount := rfl, phase := rfl, remain := rfl
    queue := by rw [Block.resetRegisters_queue, Block.resetRegisters_queue] }

theorem SameView.setRdPos (h : SameView s t) (hn : n ≤ s.len.toNat) :
    SameView (s.setRdPos (s.rdPos + BitVec.ofNat P.cntW n)) (t.setRdPos (t.rdPos + BitVec.ofNat P.cntW n)) :=
  { h with
    rdPos := congrArg (· + BitVec.ofNat P.cntW n) h.rdPos
    queue := by rw [Block.queue_setRdPos hn, Block.queue_setRdPos (h.len_eq ▸ hn), h.queue] }

theorem SameView.setRdPos_wrPos (h : SameView s t) : SameView (s.setRdPos s.wrPos) (t.setRdPos t.wrPos) := by
  rw [← s.rdPos_add_ofNat_len, ← t.rdPos_add_ofNat_len, ← h.len_eq]
  exact h.setRdPos le_rfl

theorem SameView.takeBytes (h : SameView s t) (hn : n ≤ s.len.toNat) : SameView (s.takeBytes n) (t.takeBytes n) :=
  { h.setRdPos hn with
    rdStream := by rw [Block.rdStream_takeBytes hn, Block.rdStream_takeBytes (h.len_eq ▸ hn), h.rdStream, h.queue] }

theorem SameView.putByte (h : SameView s t) (hring : s.Ring) (hroom : s.len.toNat ≤ s.mask.toNat) :
    SameView (s.putByte b) (t.putByte b) :=
  { h with
    wrPos := congrArg (· + 1) h.wrPos
    queue := by
      rw [hring.queue_putByte hroom, (h.ring hring).queue_putByte (h.len_eq ▸ h.mask ▸ hroom), h.queue] }

theorem SameView.putBytes (h : SameView s t) (hring : s.Ring) (hroom : s.len.toNat + bs.length ≤ s.mask.toNat + 1) :
    SameView (s.putBytes bs) (t.putBytes bs) := by
  induction bs generalizing s t with
  | nil => exact h
  | cons b bs ih =>
    rw [List.length_cons] at hroom
    have hfree : s.len.toNat ≤ s.mask.toNat := by omega
    have hlen : (s.putByte b).len.toNat = s.len.toNat + 1 := hring.len_putByte_toNat hfree
    exact ih (h.putByte hring hfree) (hring.putByte hfree) (by rw [hlen, Block.putByte_mask]; omega)

/-! ### Outcomes with the same view -/

/-- Two outcomes that show the same: next states with the same view, or the same fault. -/
inductive SameOutcome : Host.Outcome (Block P) Fault Refusal → Host.Outcome (Block P) Fault Refusal → Prop where
  | next {s t : Block P} : SameView s t → SameOutcome (.next s) (.next t)
  | fault (f : Fault) : SameOutcome (.fault f) (.fault f)

theorem SameView.fail (h : SameView s t) (st : Status) : SameOutcome (fail st s) (fail st t) :=
  .next (h.respond st 0 0)

/-- Both branch the same way on a condition that has the same value. -/
theorem SameOutcome.ite {c d : Prop} [Decidable c] [Decidable d] {o o' u u' : Host.Outcome (Block P) Fault Refusal}
    (hcd : c ↔ d) (ho : c → SameOutcome o o') (hu : ¬ c → SameOutcome u u') :
    SameOutcome (if c then o else u) (if d then o' else u') := by
  by_cases hc : c
  · rw [if_pos hc, if_pos (hcd.mp hc)]
    exact ho hc
  · rw [if_neg hc, if_neg (mt hcd.mpr hc)]
    exact hu hc

/-! ### Every command -/

theorem SameView.uninitialized_iff (h : SameView s t) : s.initDone = false ↔ t.initDone = false := by
  rw [h.initDone]

theorem SameView.empty_iff (h : SameView s t) : s.len = 0 ↔ t.len = 0 := by
  rw [h.len_eq]

theorem SameView.full_iff (h : SameView s t) : s.space = 0 ↔ t.space = 0 := by
  rw [h.space_eq]

theorem SameView.bulkReadRule (h : SameView s t) (size : Count P) :
    SameOutcome (s.bulkReadRule size) (t.bulkReadRule size) := by
  obtain ⟨hd, hs⟩ | ⟨hd, hempty, hs⟩ | ⟨hd, hne, -⟩ := s.bulkReadRule_cases size
  · rw [hs, Block.bulkReadRule_of_uninitialized (h.initDone ▸ hd)]
    exact .next (h.respond _ 0 0)
  · rw [hs, Block.bulkReadRule_of_empty (h.initDone ▸ hd) (h.empty_iff.mp hempty)]
    exact .next (h.respond _ 0 0)
  · rw [Block.bulkReadRule_eq_takeBytes hd hne,
      Block.bulkReadRule_eq_takeBytes (h.initDone ▸ hd) (mt h.empty_iff.mpr hne), ← h.readCount_eq]
    exact .next ((h.takeBytes (s.readCount_le_len size)).respondTransfer _)

theorem SameView.bulkWriteRule (h : SameView s t) (hinv : Inv s) (size : Count P) :
    SameOutcome (s.bulkWriteRule size) (t.bulkWriteRule size) := by
  obtain ⟨hd, hs⟩ | ⟨hd, hfull, hs⟩ | ⟨hd, hroom, hshort, hs⟩ | ⟨hd, hroom, hdata, -⟩ := s.bulkWriteRule_cases size
  · rw [hs, Block.bulkWriteRule_of_uninitialized (h.initDone ▸ hd)]
    exact .next (h.respond _ 0 0)
  · rw [hs, Block.bulkWriteRule_of_full (h.initDone ▸ hd) (h.full_iff.mp hfull)]
    exact .next (h.respond _ 0 0)
  · rw [hs, Block.bulkWriteRule_of_shortData (h.initDone ▸ hd) (mt h.full_iff.mpr hroom)
      (by rwa [← h.writeCount_eq, ← h.wrData])]
    exact .fault _
  · rw [Block.bulkWriteRule_eq_putBytes hd hroom hdata, Block.bulkWriteRule_eq_putBytes (h.initDone ▸ hd)
      (mt h.full_iff.mpr hroom) (by rwa [← h.writeCount_eq, ← h.wrData]), ← h.writeCount_eq, ← h.wrData]
    exact .next (((h.putBytes hinv.live.toRing (hinv.len_add_length_take_le hd size rfl)).consume _).respondTransfer _)

theorem SameView.rule (h : SameView s t) (hinv : Inv s) (i : Instr) : SameOutcome (s.rule i) (t.rule i) := by
  cases i with
  | init arr cap =>
    exact .ite Iff.rfl (fun _ => h.fail _) fun _ => .ite Iff.rfl (fun _ => h.fail _) fun _ =>
      .next ((h.bindCapacity _).respond .ok 0 0)
  | put b =>
    refine .ite h.uninitialized_iff (fun _ => h.fail _) fun _ => .ite (by rw [h.len_eq, h.mask]) (fun _ => h.fail _)
      fun hroom => .next ((h.putByte hinv.live.toRing ?_).respond .ok 0 0)
    exact BitVec.le_def.mp (not_not.mp hroom)
  | get =>
    refine .ite h.uninitialized_iff (fun _ => h.fail _) fun _ => .ite h.empty_iff (fun _ => h.fail _) fun hne => ?_
    rw [h.memRead_head_eq hne]
    exact .next ((h.setRdPos (n := 1) (Block.len_pos hne)).respond .ok _ 0)
  | peek k =>
    refine .ite h.uninitialized_iff (fun _ => h.fail _) fun _ => .ite (by rw [h.len_eq]) (fun _ => h.fail _)
      fun hin => ?_
    rw [h.memRead_eq (not_not.mp hin)]
    exact .next (h.respond .ok _ 0)
  | flush =>
    obtain ⟨hd, hs⟩ | ⟨hd, hs⟩ := s.flushRule_cases
    · rw [Block.rule, Block.rule, hs, Block.flushRule_of_uninitialized (h.initDone ▸ hd)]
      exact .next (h.respond .ok 0 0)
    · rw [Block.rule, Block.rule, hs, Block.flushRule_of_initialized (h.initDone ▸ hd)]
      exact .next (h.setRdPos_wrPos.respond .ok 0 0)
  | len =>
    rw [Block.rule, Block.rule, Block.lenRule, Block.lenRule, h.len_eq]
    exact .next (h.respond .ok 0 _)
  | bulkReadQ =>
    refine .ite h.uninitialized_iff (fun _ => h.fail _) fun _ => .ite h.empty_iff (fun _ => h.fail _) fun _ => ?_
    rw [h.len_eq]
    exact .next (h.respond .ok 0 _)
  | bulkRead size => exact h.bulkReadRule _
  | bulkWriteQ =>
    refine .ite h.uninitialized_iff (fun _ => h.fail _) fun _ => .ite h.full_iff (fun _ => h.fail _) fun _ => ?_
    rw [h.space_eq]
    exact .next (h.respond .ok 0 _)
  | bulkWrite size => exact h.bulkWriteRule hinv _

/-! ### Every edge and every step -/

theorem SameView.accept (h : SameView s t) (hinv : Inv s) (i : Instr) : SameOutcome (accept i s) (accept i t) := by
  obtain ⟨ph, m, htransfer, ha⟩ | ⟨htransfer, ha⟩ := accept_cases i s
  · rw [ha, accept_of_transferOf (h.transferOf_eq i ▸ htransfer)]
    exact .next ((h.startTransfer ph m).respond .ok 0 m)
  · rw [ha, accept_of_no_transfer (h.transferOf_eq i ▸ htransfer)]
    exact h.rule hinv i

theorem SameView.writeBeat (h : SameView s t) (hinv : Inv s) (hp : s.phase = phaseXferWr) :
    SameView (s.writeBeat b) (t.writeBeat b) := by
  obtain ⟨hpos, hle⟩ := hinv.writeRemain hp
  exact (h.putByte hinv.live.toRing (by omega)).countBeat

theorem SameView.readBeat (h : SameView s t) (hinv : Inv s) (hp : s.phase = phaseXferRd) :
    SameView s.readBeat t.readBeat := by
  obtain ⟨hpos, hle⟩ := hinv.readRemain hp
  have htake : SameView (s.takeBytes 1) (t.takeBytes 1) := h.takeBytes (by omega)
  rw [Block.takeBytes_one, Block.takeBytes_one] at htake
  exact htake.countBeat

theorem SameView.wait (h : SameView s t) (hinv : Inv s) (p : PortIn P) : SameView (s.wait p) (t.wait p) := by
  obtain ⟨hp, hv, hs⟩ | ⟨hp, hv, hs⟩ | ⟨hnw, hnr, hs⟩ := s.wait_cases p
  · rw [hs, Block.wait_of_write (h.phase ▸ hp) hv]
    exact h.endResponse.writeBeat hinv.endResponse hp
  · rw [hs, Block.wait_of_read (h.phase ▸ hp) hv]
    exact h.endResponse.readBeat hinv.endResponse hp
  · rw [hs, Block.wait, ← h.phase, if_neg hnw, if_neg hnr]
    exact h.endResponse

theorem SameView.clockEdge (h : SameView s t) (hinv : Inv s) (p : PortIn P) :
    SameOutcome (clockEdge p s) (clockEdge p t) := by
  obtain ⟨hr, he⟩ | ⟨hr, hv, hp, he⟩ | ⟨hr, hno, he⟩ := clockEdge_cases p s
  · rw [he, clockEdge_of_reset hr]
    exact .next h.resetRegisters
  · rw [he, clockEdge_of_accept hr hv (h.phase ▸ hp)]
    exact h.accept hinv _
  · have ht : Machine.clockEdge p t = .next (t.wait p) := by
      obtain hv | hp := hno
      · exact clockEdge_without_command hr hv
      · exact clockEdge_in_transfer hr (h.phase ▸ hp)
    rw [he, ht]
    exact .next (h.wait hinv p)

theorem SameView.holdCommand (h : SameView s t) (hinv : Inv s) (c : CmdWord P) :
    SameView (s.holdCommand c) (t.holdCommand c) := by
  have hports : PortIn.held c s = PortIn.held c t := by rw [PortIn.held, h.wrData, PortIn.held]
  have hwait : SameView (s.wait (PortIn.held c s)) (t.wait (PortIn.held c t)) := hports ▸ h.wait hinv _
  simp only [Block.holdCommand, ← h.phase]
  split
  · exact hwait.consume 1
  · exact hwait

/-- Each kind of step takes both machines to outcomes that show the same. -/
theorem SameView.step (h : SameView s t) (hinv : Inv s) :
    ∃ o o', step ⟨P, s⟩ = liftBlock P o ∧ step ⟨P, t⟩ = liftBlock P o' ∧ SameOutcome o o' := by
  obtain ⟨hh, hs⟩ | ⟨p, rest, hh, hs⟩ | ⟨c, d, rest, hh, hp, hs⟩ | ⟨c, d, rest, hh, hp, hs⟩ := step_cases s
  · exact ⟨_, _, hs, step_of_nothing (h.host ▸ hh), h.clockEdge hinv _⟩
  · exact ⟨_, _, hs, step_of_cycle (h.host ▸ hh), (h.present rest).clockEdge (hinv.present rest) p⟩
  · exact ⟨_, _, hs, step_of_command (h.host ▸ hh) (h.phase ▸ hp),
      ((h.present rest).offer d).rule ((hinv.present rest).offer d) _⟩
  · exact ⟨.next _, .next _, hs, step_of_held (h.host ▸ hh) (h.phase ▸ hp), .next (h.holdCommand hinv c)⟩

/-- In a read transfer a byte is buffered, so rd_byte presents one of the queue (70_reset_and_hazards.md R106). -/
theorem SameView.outputs_eq (h : SameView s t) (hinv : Inv s) (rst : Bool) : outputs rst s = outputs rst t := by
  have hvalid : rdValid rst s = rdValid rst t := by rw [rdValid, h.phase, rdValid]
  have hbyte : rdValid rst s = true → s.memRead (s.idx s.rdPos) = t.memRead (t.idx t.rdPos) := by
    intro hv
    obtain ⟨-, hp⟩ := rdValid_iff.mp hv
    obtain ⟨hpos, hle⟩ := hinv.readRemain hp
    exact h.memRead_head_eq (by rw [Ne, count_eq_zero_iff_toNat]; omega)
  have hrdByte : (outputs rst s).rdByte = (outputs rst t).rdByte :=
    ite_congr (by rw [hvalid]) (fun hv => hbyte (hvalid ▸ hv)) fun _ => rfl
  simp only [outputs] at hrdByte ⊢
  rw [hrdByte, cmdReady, wrReady, hvalid, h.phase, h.rspValid, h.rspStatus, h.rspByte, h.rspCount, cmdReady, wrReady]

end Sys2Proof.Machine

namespace Sys2Proof.Proofs

open Sys2Proof.Machine

/-- Settles O46: every output, every test and every named update of a step depends on the registers and the queue. -/
theorem staleCellsAreUnobservable : Obligations.StaleCellsAreUnobservable := by
  intro P s t hinv h
  obtain ⟨o, o', hs, ht, hsame⟩ := h.step hinv
  refine ⟨h.outputs_eq hinv, fun s' hs' => ?_, fun f hf => ?_⟩
  · cases liftBlock_eq_next_iff.mp (hs.symm.trans hs')
    cases hsame with
    | next hview => exact ⟨_, ht, hview⟩
  · cases liftBlock_eq_fault_iff.mp (hs.symm.trans hf)
    cases hsame with
    | fault => exact ht

end Sys2Proof.Proofs
end

section
/-! PROOFS. Agreement: a transfer's beats, with waits among them or under a held command, end in the state the command's rule gives (70_reset_and_hazards.md section 2; log 4, log 7, log 10). -/

namespace Sys2Proof.Machine

variable {P : Params} {s : Block P} {b : Byte} {bs : List Byte} {n : Nat} {m : Count P} {p q : PortIn P}
  {ps : List (PortIn P)} {c : CmdWord P} {d : List Byte} {rest : List (HostAct P)}

/-! ### The end of a transfer -/

/-- PHASE idle, no beat owed and no response presented, as the last beat of a transfer leaves them (R104, R105). -/
def Block.endTransfer (s : Block P) : Block P :=
  { s with rspValid := false, phase := phaseIdle, remain := 0 }

/-- The acceptance edge and the end of the transfer it starts leave the response of the whole command (R102, R113; log 4). -/
theorem Block.endTransfer_of_start {ph : BitVec 2} (hp : s.phase = phaseIdle) (hr : s.remain = 0) (hm : m ≠ 0) :
    ((s.startTransfer ph m).respond .ok 0 m).endTransfer = s.respondTransfer m := by
  simp only [Block.endTransfer, Block.respond, Block.startTransfer, Block.respondTransfer, decide_eq_false hm, hp, hr]

/-- Putting bytes neither reads nor writes PHASE, REMAIN, the response or the data operand. -/
theorem Block.putBytes_respondTransfer (s : Block P) (m : Count P) (bs : List Byte) :
    (s.respondTransfer m).putBytes bs = (s.putBytes bs).respondTransfer m :=
  List.foldl_hom (Block.respondTransfer · m) fun _ _ => rfl

theorem Block.putBytes_consume (s : Block P) (k : Nat) (bs : List Byte) :
    (s.consume k).putBytes bs = (s.putBytes bs).consume k :=
  List.foldl_hom (Block.consume · k) fun _ _ => rfl

theorem Block.putBytes_offer (s : Block P) (d bs : List Byte) : (s.offer d).putBytes bs = (s.putBytes bs).offer d :=
  List.foldl_hom (Block.offer · d) fun _ _ => rfl

/-! ### One beat of several -/

/-- A beat that is not the last leaves PHASE and counts REMAIN down. -/
theorem Block.countBeat_more (h : s.remain.toNat = n + 2) :
    s.countBeat.phase = s.phase ∧ s.countBeat.remain.toNat = n + 1 := by
  have hlast : s.remain ≠ 1 := fun heq => by simp [heq] at h
  obtain ⟨-, hrest⟩ := remain_sub_one_toNat (by omega) hlast
  exact ⟨if_neg hlast, hrest.trans (by omega)⟩

theorem Block.writeBeat_more (h : s.remain.toNat = n + 2) :
    (s.endResponse.writeBeat b).phase = s.phase ∧ (s.endResponse.writeBeat b).remain.toNat = n + 1 :=
  Block.countBeat_more (s := s.endResponse.putByte b) h

theorem Block.readBeat_more (h : s.remain.toNat = n + 2) :
    s.endResponse.readBeat.phase = s.phase ∧ s.endResponse.readBeat.remain.toNat = n + 1 :=
  Block.countBeat_more (s := (s.endResponse.deliver [s.memRead (s.idx s.rdPos)]).setRdPos (s.rdPos + 1)) h

/-- The last beat ends the transfer. -/
theorem Block.countBeat_last (h : s.remain.toNat = 1) : s.endResponse.countBeat = s.endTransfer := by
  have hone : s.remain = 1 := remain_eq_one h
  simp [Block.countBeat, Block.endResponse, Block.endTransfer, hone]

theorem Block.writeBeat_endTransfer (s : Block P) (b : Byte) :
    (s.endResponse.writeBeat b).endTransfer = s.endTransfer.putByte b := rfl

theorem Block.writeBeat_last (h : s.remain.toNat = 1) : s.endResponse.writeBeat b = s.endTransfer.putByte b :=
  Block.countBeat_last (s := s.putByte b) h

theorem Block.readBeat_endTransfer (s : Block P) : s.endResponse.readBeat.endTransfer = s.endTransfer.takeBytes 1 := by
  rw [Block.takeBytes_one]
  rfl

theorem Block.readBeat_last (h : s.remain.toNat = 1) : s.endResponse.readBeat = s.endTransfer.takeBytes 1 := by
  rw [Block.takeBytes_one]
  exact Block.countBeat_last (s := (s.deliver [s.memRead (s.idx s.rdPos)]).setRdPos (s.rdPos + 1)) h

/-! ### Cycles with waits (R104, R105, R113) -/

theorem writeBytes_cons_of_valid (ps : List (PortIn P)) (hv : p.wrValid = true) :
    writeBytes (p :: ps) = p.wrByte :: writeBytes ps := by
  simp [writeBytes, hv]

theorem writeBytes_cons_of_not_valid (ps : List (PortIn P)) (hv : p.wrValid = false) :
    writeBytes (p :: ps) = writeBytes ps := by
  simp [writeBytes, hv]

theorem readBeats_cons_of_ready (ps : List (PortIn P)) (hv : p.rdReady = true) :
    readBeats (p :: ps) = readBeats ps + 1 := by
  simp [readBeats, hv]

theorem readBeats_cons_of_not_ready (ps : List (PortIn P)) (hv : p.rdReady = false) :
    readBeats (p :: ps) = readBeats ps := by
  simp [readBeats, hv]

/-- A run of cycles that ends in a beat has at least one. -/
theorem writeBytes_concat_length (hq : q.wrValid = true) :
    (writeBytes (ps ++ [q])).length = (writeBytes ps).length + 1 := by
  simp [writeBytes, hq]

theorem readBeats_concat (hq : q.rdReady = true) : readBeats (ps ++ [q]) = readBeats ps + 1 := by
  simp [readBeats, hq]

theorem clockEdge_of_write (hr : p.rst = false) (hp : s.phase = phaseXferWr) (hv : p.wrValid = true) :
    clockEdge p s = .next (s.endResponse.writeBeat p.wrByte) := by
  rw [clockEdge_in_transfer hr (by simp [hp]), Block.wait_of_write hp hv]

theorem clockEdge_of_write_wait (hr : p.rst = false) (hp : s.phase = phaseXferWr) (hv : p.wrValid = false) :
    clockEdge p s = .next s.endResponse := by
  rw [clockEdge_in_transfer hr (by simp [hp]), Block.wait_of_no_beat (fun _ => hv) (by simp [hp])]

theorem clockEdge_of_read (hr : p.rst = false) (hp : s.phase = phaseXferRd) (hv : p.rdReady = true) :
    clockEdge p s = .next s.endResponse.readBeat := by
  rw [clockEdge_in_transfer hr (by simp [hp]), Block.wait_of_read hp hv]

theorem clockEdge_of_read_wait (hr : p.rst = false) (hp : s.phase = phaseXferRd) (hv : p.rdReady = false) :
    clockEdge p s = .next s.endResponse := by
  rw [clockEdge_in_transfer hr (by simp [hp]), Block.wait_of_no_beat (by simp [hp]) (fun _ => hv)]

/-- Cycles that end with the last beat a write transfer owes put the bytes of their beats; a wait between them ends the
response and changes nothing else. -/
theorem clockRun_write_transfer (hp : s.phase = phaseXferWr) (hrst : ∀ r ∈ ps ++ [q], r.rst = false)
    (hq : q.wrValid = true) (hcount : (writeBytes (ps ++ [q])).length = s.remain.toNat) :
    clockRun (ps ++ [q]) s = .next (s.endTransfer.putBytes (writeBytes (ps ++ [q]))) := by
  induction ps generalizing s with
  | nil =>
    rw [List.nil_append, writeBytes_cons_of_valid [] hq] at hcount ⊢
    rw [clockRun_cons_of_next [] (clockEdge_of_write (hrst q (by simp)) hp hq), Block.writeBeat_last hcount.symm]
    rfl
  | cons p ps ih =>
    obtain ⟨hr, hrst'⟩ := List.forall_mem_cons.mp hrst
    rw [List.cons_append] at hcount ⊢
    cases hv : p.wrValid with
    | true =>
      rw [writeBytes_cons_of_valid _ hv, List.length_cons, writeBytes_concat_length hq] at hcount
      obtain ⟨hphase, hremain⟩ := Block.writeBeat_more (b := p.wrByte) hcount.symm
      rw [clockRun_cons_of_next _ (clockEdge_of_write hr hp hv), writeBytes_cons_of_valid _ hv, Block.putBytes_cons,
        ← Block.writeBeat_endTransfer]
      exact ih (hphase.trans hp) hrst' ((writeBytes_concat_length hq).trans hremain.symm)
    | false =>
      rw [writeBytes_cons_of_not_valid _ hv] at hcount ⊢
      rw [clockRun_cons_of_next _ (clockEdge_of_write_wait hr hp hv)]
      exact ih (s := s.endResponse) hp hrst' hcount

/-- Cycles that end with the last beat a read transfer owes take that many bytes. -/
theorem clockRun_read_transfer (hp : s.phase = phaseXferRd) (hrst : ∀ r ∈ ps ++ [q], r.rst = false)
    (hq : q.rdReady = true) (hcount : readBeats (ps ++ [q]) = s.remain.toNat) :
    clockRun (ps ++ [q]) s = .next (s.endTransfer.takeBytes (readBeats (ps ++ [q]))) := by
  induction ps generalizing s with
  | nil =>
    rw [List.nil_append, readBeats_cons_of_ready [] hq] at hcount ⊢
    rw [clockRun_cons_of_next [] (clockEdge_of_read (hrst q (by simp)) hp hq), Block.readBeat_last hcount.symm]
    rfl
  | cons p ps ih =>
    obtain ⟨hr, hrst'⟩ := List.forall_mem_cons.mp hrst
    rw [List.cons_append] at hcount ⊢
    cases hv : p.rdReady with
    | true =>
      rw [readBeats_cons_of_ready _ hv, readBeats_concat hq] at hcount
      obtain ⟨hphase, hremain⟩ := Block.readBeat_more hcount.symm
      rw [clockRun_cons_of_next _ (clockEdge_of_read hr hp hv), readBeats_cons_of_ready _ hv, Block.takeBytes_succ,
        ← Block.readBeat_endTransfer]
      exact ih (hphase.trans hp) hrst' ((readBeats_concat hq).trans hremain.symm)
    | false =>
      rw [readBeats_cons_of_not_ready _ hv] at hcount ⊢
      rw [clockRun_cons_of_next _ (clockEdge_of_read_wait hr hp hv)]
      exact ih (s := s.endResponse) hp hrst' hcount

/-! ### A held command (R100, R106; log 10) -/

theorem run_succ_of_next {u v : State} (n : Nat) (h : step u = .next v) : core.run (n + 1) u = core.run n v := by
  have hcore : core.step u = .next v := h
  simp only [Host.Core.run, hcore]

/-- A held command waits through a read transfer of n beats in n steps. -/
theorem run_held_read (hp : s.phase = phaseXferRd) (hh : s.host = .command c d :: rest) (hn : s.remain.toNat = n + 1) :
    core.run (n + 1) ⟨P, s⟩ = .next ⟨P, s.endTransfer.takeBytes (n + 1)⟩ := by
  induction n generalizing s with
  | zero =>
    rw [run_succ_of_next 0 (step_of_held hh (by simp [hp])), Block.holdCommand_of_read hp, Block.readBeat_last hn]
    rfl
  | succ n ih =>
    obtain ⟨hphase, hremain⟩ := Block.readBeat_more hn
    rw [run_succ_of_next _ (step_of_held hh (by simp [hp])), Block.holdCommand_of_read hp, Block.takeBytes_succ,
      ← Block.readBeat_endTransfer]
    exact ih (hphase.trans hp) hh hremain

theorem Block.consume_consume (s : Block P) (j k : Nat) : (s.consume j).consume k = s.consume (j + k) := by
  simp [Block.consume, List.drop_drop]

/-- A held command waits through a write transfer of n beats in n steps, if the host offers n bytes. -/
theorem run_held_write (hp : s.phase = phaseXferWr) (hh : s.host = .command c d :: rest)
    (hn : s.remain.toNat = n + 1) (hdata : n + 1 ≤ s.wrData.length) :
    core.run (n + 1) ⟨P, s⟩ =
      .next ⟨P, (s.endTransfer.putBytes (s.wrData.take (n + 1))).consume (n + 1)⟩ := by
  induction n generalizing s with
  | zero =>
    obtain ⟨b, bs, hbs⟩ := List.exists_cons_of_length_pos hdata
    rw [run_succ_of_next 0 (step_of_held hh (by simp [hp])), Block.holdCommand_of_write hp hbs, Block.writeBeat_last hn, hbs]
    rfl
  | succ n ih =>
    obtain ⟨b, bs, hbs⟩ := List.exists_cons_of_length_pos (Nat.zero_lt_of_lt hdata)
    obtain ⟨hphase, hremain⟩ := Block.writeBeat_more (b := b) hn
    have hdata' : ((s.endResponse.writeBeat b).consume 1).wrData = bs := by
      rw [Block.consume_wrData]
      exact congrArg (List.drop 1) hbs
    have hrest := ih (s := (s.endResponse.writeBeat b).consume 1) (hphase.trans hp) hh hremain
      (by rw [hdata']; simpa [hbs] using hdata)
    have hput : ((s.endResponse.writeBeat b).consume 1).endTransfer = (s.endTransfer.putByte b).consume 1 := rfl
    rw [run_succ_of_next _ (step_of_held hh (by simp [hp])), Block.holdCommand_of_write hp hbs, hrest, hdata', hput,
      Block.putBytes_consume, Block.consume_consume, Nat.add_comm 1, hbs, List.take_succ_cons, Block.putBytes_cons]

end Sys2Proof.Machine

namespace Sys2Proof.Proofs

open Sys2Proof.Machine

/-- Settles O57: the acceptance edge starts a transfer of n bytes, the beats put them with the waits between them, and the
rule puts the same bytes. -/
theorem bulkWriteCyclesAgree : Obligations.BulkWriteCyclesAgree := by
  intro P s p q ps size hinv hp hd hr hv hdec hrst hq hcount
  have hsize : (BitVec.ofNat P.cntW size).toNat = size := toNat_ofNat_decoded_arg hdec
  obtain ⟨m, hm⟩ : ∃ m, s.writeCount (BitVec.ofNat P.cntW size) = m := ⟨_, rfl⟩
  have hmoved : m.toNat = (writeBytes (ps ++ [q])).length := by rw [← hm, s.writeCount_toNat, hsize, hcount]
  have hsome : (writeBytes (ps ++ [q])).length = (writeBytes ps).length + 1 := writeBytes_concat_length hq
  have hne : m ≠ 0 := mt count_eq_zero_iff_toNat.mp (by omega)
  have hroom : s.space ≠ 0 := mt count_eq_zero_iff_toNat.mp (by omega)
  have hremain : ((s.startTransfer phaseXferWr m).respond .ok 0 m).remain.toNat = m.toNat := by
    have hle : s.len.toNat + m.toNat ≤ s.mask.toNat + 1 := hm ▸ hinv.len_add_writeCount_le hd _
    exact hinv.toNat_remain_of_le_capacity hd (by omega)
  have hstart : clockEdge p s = .next ((s.startTransfer phaseXferWr m).respond .ok 0 m) := by
    rw [clockEdge_of_accept hr hv hp, hdec, accept_of_transferOf (transferOf_bulkWrite hd hroom (hm ▸ hne)), hm]
  have hm' : (s.offer (writeBytes (ps ++ [q]))).writeCount (BitVec.ofNat P.cntW size) = m := hm
  have hrule := Block.bulkWriteRule_eq_putBytes (s := s.offer (writeBytes (ps ++ [q]))) hd hroom (hm' ▸ hmoved.le)
  rw [hm', Block.offer_wrData, hmoved, List.take_length, Block.putBytes_offer] at hrule
  refine ⟨_, exec_eq_next_iff.mpr hrule, ?_⟩
  rw [clockRun_cons_of_next _ hstart, clockRun_write_transfer rfl hrst hq (hmoved.symm.trans hremain.symm),
    Block.endTransfer_of_start hp (hinv.idleRemain hp) hne, Block.putBytes_respondTransfer]
  rw [← s.putBytes_wrData (writeBytes (ps ++ [q]))]
  rfl

/-- Settles O58: the acceptance edge starts a transfer of n bytes, the beats take them with the waits between them, and the
rule takes the same bytes. -/
theorem bulkReadCyclesAgree : Obligations.BulkReadCyclesAgree := by
  intro P s p q ps size hinv hp hd hr hv hdec hrst hq hcount
  have hsize : (BitVec.ofNat P.cntW size).toNat = size := toNat_ofNat_decoded_arg hdec
  obtain ⟨m, hm⟩ : ∃ m, s.readCount (BitVec.ofNat P.cntW size) = m := ⟨_, rfl⟩
  have hmoved : m.toNat = readBeats (ps ++ [q]) := by rw [← hm, s.readCount_toNat, hsize, hcount]
  have hsome : readBeats (ps ++ [q]) = readBeats ps + 1 := readBeats_concat hq
  have hne : m ≠ 0 := mt count_eq_zero_iff_toNat.mp (by omega)
  have hlen : s.len ≠ 0 := mt count_eq_zero_iff_toNat.mp (by omega)
  have hremain : ((s.startTransfer phaseXferRd m).respond .ok 0 m).remain.toNat = m.toNat := by
    have hle : m.toNat ≤ s.len.toNat := hm ▸ s.readCount_le_len _
    exact hinv.toNat_remain_of_le_capacity hd (hle.trans hinv.lenBound)
  have hstart : clockEdge p s = .next ((s.startTransfer phaseXferRd m).respond .ok 0 m) := by
    rw [clockEdge_of_accept hr hv hp, hdec, accept_of_transferOf (transferOf_bulkRead hd hlen (hm ▸ hne)), hm]
  refine ⟨_, exec_eq_next_iff.mpr (Block.bulkReadRule_eq_takeBytes hd hlen), ?_⟩
  rw [clockRun_cons_of_next _ hstart, clockRun_read_transfer rfl hrst hq (hmoved.symm.trans hremain.symm),
    Block.endTransfer_of_start hp (hinv.idleRemain hp) hne, hm, hmoved]
  rfl

/-- Settles O59: n steps of a held command are the n beats owed, which end the transfer and keep what the host presents. -/
theorem heldCommandReachesBoundary : Obligations.HeldCommandReachesBoundary := by
  refine ⟨fun P s c d rest hinv hp hh => ?_, fun P s c d rest hinv hp hh hdata => ?_⟩
  · obtain ⟨hpos, hle⟩ := hinv.readRemain hp
    obtain ⟨n, hn⟩ := Nat.exists_eq_succ_of_ne_zero hpos.ne'
    rw [hn] at hle ⊢
    exact ⟨_, run_held_read hp hh hn, rfl, rfl, Block.rdStream_takeBytes (s := s.endTransfer) hle,
      Block.queue_takeBytes (s := s.endTransfer) hle⟩
  · obtain ⟨hpos, hle⟩ := hinv.writeRemain hp
    obtain ⟨n, hn⟩ := Nat.exists_eq_succ_of_ne_zero hpos.ne'
    rw [hn] at hle hdata ⊢
    have hring : s.endTransfer.Ring := hinv.live.toRing.congr ⟨rfl, rfl, rfl, rfl, rfl⟩
    refine ⟨_, run_held_write hp hh hn hdata, by simp [Block.endTransfer], by simp [Block.endTransfer], ?_, ?_⟩
    · exact hring.queue_putBytes (bs := s.wrData.take (n + 1)) (by rw [List.length_take_of_le hdata]; exact hle)
    · simp [Block.endTransfer]

end Sys2Proof.Proofs
end
